-- ==== Sys2Proof/Word.lean ====
section
/-! DEFINITION. The unit of transfer and the word of command of the framer block. -/

namespace Sys2Proof

/-- A byte, 8 bits, bit 0 least significant (00_scope.md section 7.1; `BYTE_BITS` = 8, R5). -/
abbrev Byte := BitVec 8

/-- A command word `CMD = {op[3:0], imm8[7:0]}`, 12 bits (30_encoding.md R54). -/
abbrev CmdWord := BitVec 12

end Sys2Proof
end

