-- ==== Sys2Proof/Config.lean ====
section
/-! DEFINITION. The constants and the build-time parameters of the block (00_scope.md R5). The four
parameters are an argument of the block (`execUnder`, `stepUnder`, `coreUnder`); this hardware takes the defaults (log 7). -/

namespace Sys2Proof

/-- `SURPLUS_POLICY`: what FRAME.DES does with bytes after the CRC trailer (00_scope.md R5, 42_codec.md R88). -/
inductive SurplusPolicy
  | invalidLength
  | ignore
deriving DecidableEq, Repr

/-- `SHORT_LEN_POLICY`: what the synchronizer does when `data_length < MIN_DLEN`; `abort` is the only value
the spec defines (43_synchronizer.md R109). -/
inductive ShortLenPolicy
  | abort
deriving DecidableEq, Repr

/-- The four build-time parameters (00_scope.md R5; no run-time state, 10_state.md R19). -/
structure Config where
  /-- `LEN_ADJ`, 0 or 1: the "minus one" of the `data_length` convention (30_encoding.md R50). -/
  lenAdj : Fin 2
  /-- `SEQ_INIT`: the reset value of the sequence counter (41_header.md R79). -/
  seqInit : BitVec 14
  surplusPolicy : SurplusPolicy
  shortLenPolicy : ShortLenPolicy
deriving DecidableEq, Repr

/-- The values this hardware takes: the defaults of 00_scope.md R5. -/
def Config.hardware : Config :=
  { lenAdj := 1, seqInit := 0, surplusPolicy := .invalidLength, shortLenPolicy := .abort }

/-- `HDR_LEN` (R5). -/
def hdrLen : Nat := 16
/-- `PRI_HDR_LEN` (R5). -/
def priHdrLen : Nat := 6
/-- `SEC_HDR_LEN` (R5). -/
def secHdrLen : Nat := 10
/-- `CRC_LEN` (R5). -/
def crcLen : Nat := 4
/-- `SYNC0`, the first byte of the marker on the wire (R5, 30_encoding.md R45). -/
def sync0 : Byte := 0x55
/-- `SYNC1`, the second byte of the marker on the wire (R5, 30_encoding.md R45). -/
def sync1 : Byte := 0xAA
/-- `MAX_PAYLOAD` = 0xFFFF - 14 = 65521, under both values of `LEN_ADJ` (R5, 30_encoding.md R51, 90_conflicts.md C2). -/
def maxPayload : Nat := 65521
/-- `MIN_FRAME`: header, no payload, trailer (R5). -/
def minFrame : Nat := 20
/-- `CRC_POLY_REFLECTED` (R5, 40_crc32.md R65). -/
def crcPolyReflected : BitVec 32 := 0xEDB88320
/-- Initial value and final exclusive-or of the CRC (40_crc32.md R65). -/
def crcAllOnes : BitVec 32 := 0xFFFFFFFF

/-- `MIN_DLEN = SEC_HDR_LEN + CRC_LEN - LEN_ADJ`, 13 by default (R5). -/
def Config.minDlen (c : Config) : Nat := secHdrLen + crcLen - c.lenAdj.val

/-- `FBUF_CAP = PRI_HDR_LEN + 0xFFFF + LEN_ADJ`, 65542 by default (R5, 10_state.md R14). -/
def Config.fbufCap (c : Config) : Nat := priHdrLen + 0xFFFF + c.lenAdj.val

end Sys2Proof
end

