-- ==== Sys2Proof/Syntax.lean ====
section
/-! DEFINITION. The operations of the block, one constructor per row of spec/opcode_table.json, and the
values they take and give: Header (41_header.md R80) and Packet (42_codec.md R85). -/

namespace Sys2Proof

/-- A Header value: eleven unsigned fields of exactly these widths, 128 bits in all (41_header.md R80,
30_encoding.md R48). -/
structure Header where
  version : BitVec 3
  packetType : BitVec 1
  secondaryHeaderFlag : BitVec 1
  apid : BitVec 11
  sequenceFlags : BitVec 2
  sequenceCount : BitVec 14
  dataLength : BitVec 16
  timingInfo : BitVec 48
  segmentNumber : BitVec 8
  functionCode : BitVec 8
  addressCode : BitVec 16
deriving DecidableEq, Repr

/-- A Packet value: a header and a payload; the CRC trailer is not part of it (42_codec.md R85). -/
structure Packet where
  header : Header
  payload : List Byte
deriving DecidableEq, Repr

/-- The operations (00_scope.md R6) and the three reserved selectors (30_encoding.md R58). An argument named
`ignored` holds the bits of `imm8` that the operation does not use (R54; log 13). Operands wider than the
command word travel on the input ports (R54, 00_scope.md R7). -/
inductive Instr
  /-- `CRC.INIT` (40_crc32.md R67). -/
  | crcInit (ignored : BitVec 8)
  /-- `CRC.UPDATE b` (40_crc32.md R68). -/
  | crcUpdate (b : Byte)
  /-- `CRC.FINAL` (40_crc32.md R69). -/
  | crcFinal (ignored : BitVec 8)
  /-- `CRC.COMPUTE B` (40_crc32.md R70). -/
  | crcCompute (ignored : BitVec 8)
  /-- `HDR.PACK h` (41_header.md R75). -/
  | hdrPack (ignored : BitVec 8)
  /-- `HDR.UNPACK B` (41_header.md R76). -/
  | hdrUnpack (ignored : BitVec 8)
  /-- `SEQ.NEXT` (41_header.md R78). -/
  | seqNext (ignored : BitVec 8)
  /-- `SEQ.RESET` (41_header.md R79). -/
  | seqReset (ignored : BitVec 8)
  /-- `PKT.BUILD ...` (42_codec.md R86). -/
  | pktBuild (ignored : BitVec 8)
  /-- `FRAME.SER p, include_sync` (42_codec.md R87); `ignored` is `imm8[7:1]`. -/
  | frameSer (includeSync : Bool) (ignored : BitVec 7)
  /-- `FRAME.DES B, expect_sync` (42_codec.md R88); `ignored` is `imm8[7:1]`. -/
  | frameDes (expectSync : Bool) (ignored : BitVec 7)
  /-- `SYNC.FEED b` (43_synchronizer.md R102). -/
  | syncFeed (b : Byte)
  /-- `SYNC.EXHAUST` (43_synchronizer.md R103). -/
  | syncExhaust (ignored : BitVec 8)
  /-- Reserved selector `op` = 0x0 (30_encoding.md R58). -/
  | reserved0 (ignored : BitVec 8)
  /-- Reserved selector `op` = 0xE (30_encoding.md R58). -/
  | reservedE (ignored : BitVec 8)
  /-- Reserved selector `op` = 0xF (30_encoding.md R58). -/
  | reservedF (ignored : BitVec 8)
deriving DecidableEq, Repr

end Sys2Proof
end

