-- ==== Sys2Proof/Machine/State.lean ====
section
/-! DEFINITION. The state of the framer block (10_state.md R10), the ports of its transaction-level interface
(00_scope.md R7), the reasons a step can stop, and the state after reset (10_state.md R25). -/

namespace Sys2Proof.Machine

/-- The values of `ST` (10_state.md R15; codes 30_encoding.md R57). `valid` and `crcError` are transient: entered and
left inside one SYNC.FEED. -/
inductive SyncState
  | idle
  | sync
  | primaryHeader
  | secondaryHeader
  | data
  | valid
  | crcError
deriving DecidableEq, Repr

/-- The kinds on port `err` (30_encoding.md R55); codes 10 to 14 name nothing and are never produced. -/
inductive Err
  /-- Code 0: no error. -/
  | noError
  | truncatedHeader
  | tooShort
  | syncMismatch
  | invalidLength
  /-- Named, never produced as an error (60_exceptions.md R117). -/
  | crcMismatch
  /-- Out of scope, the loader's (R118). -/
  | missingField
  /-- Out of scope, the loader's (R118). -/
  | invalidPacketType
  /-- Out of scope, the loader's (R118). -/
  | badHexValue
  | payloadTooLarge
  /-- Code 15: a reserved command word (30_encoding.md R58). -/
  | reservedOp
deriving DecidableEq, Repr

/-- What is handed over with a completed frame: ports `frm`, `frm_len` (17 bits), `frm_crc_rx`, `frm_crc_calc`
(00_scope.md R7; 43_synchronizer.md R101). -/
structure HandedFrame where
  frm : List Byte
  frmLen : BitVec 17
  crcRx : BitVec 32
  crcCalc : BitVec 32
deriving DecidableEq, Repr

/-- The events on port `ev` with what they carry (30_encoding.md R56). -/
inductive Event
  /-- `NONE`: the byte was absorbed, nothing to report. -/
  | noEvent
  | syncMismatch
  | frameValid (f : HandedFrame)
  | frameCrcError (f : HandedFrame)
  | invalidLength
deriving DecidableEq, Repr

/-- The input ports of 00_scope.md R7 that carry operands; the byte and option operands are bits of the command word
(30_encoding.md R58). The caller drives them; the block never stores them (10_state.md R23; log 3). -/
structure Inputs where
  /-- `crc_buf`, `crc_buf_len`. -/
  crcBuf : List Byte
  /-- The eleven header field ports. -/
  hdr : Header
  /-- `apid_in`, 16 bits, masked by PKT.BUILD. -/
  apidIn : BitVec 16
  /-- `hdr_bytes` as an operand: the byte sequence of HDR.UNPACK, of any length (41_header.md R76). -/
  hdrBytes : List Byte
  /-- `payload`, `payload_len`. -/
  payload : List Byte
  /-- `frame`, `frame_len` as the operand of FRAME.DES. -/
  frame : List Byte
deriving DecidableEq, Repr

/-- The result ports of 00_scope.md R7 after an operation; `none` is "produces no result" there (log 3). Port `st` is
the register `ST` (`stPort`). -/
structure Outputs where
  /-- `crc_out`: CRC.FINAL, CRC.COMPUTE. -/
  crcOut : Option (BitVec 32)
  /-- The header field ports: HDR.UNPACK, PKT.BUILD, FRAME.DES. -/
  hdr : Option Header
  /-- The payload of the resulting Packet: PKT.BUILD, FRAME.DES (log 14). -/
  payload : Option (List Byte)
  /-- `hdr_bytes`: HDR.PACK. -/
  hdrBytes : Option (List Byte)
  /-- `seq_out`: SEQ.NEXT. -/
  seqOut : Option (BitVec 14)
  /-- `frame`: FRAME.SER. -/
  frame : Option (List Byte)
  /-- `frame_len`: FRAME.SER. -/
  frameLen : Option Nat
  /-- `crc_valid`: FRAME.DES (10_state.md R20). -/
  crcValid : Option Bool
  /-- `crc_rx`: FRAME.DES. -/
  crcRx : Option (BitVec 32)
  /-- `crc_calc`: FRAME.DES. -/
  crcCalc : Option (BitVec 32)
  /-- `err` (60_exceptions.md R120). -/
  err : Err
  /-- The information returned with an error (60_exceptions.md R115; log 14). -/
  errInfo : Option Nat
  /-- `ev` with `frm`, `frm_len`, `frm_crc_rx`, `frm_crc_calc`: SYNC.FEED, SYNC.EXHAUST. -/
  ev : Option Event
deriving DecidableEq, Repr

/-- No result on any port and no error. -/
def Outputs.quiet : Outputs :=
  { crcOut := none, hdr := none, payload := none, hdrBytes := none, seqOut := none, frame := none,
    frameLen := none, crcValid := none, crcRx := none, crcCalc := none, err := .noError, errInfo := none,
    ev := none }

/-- What the caller may do between two operations (70_reset_and_hazards.md R149, R135): issue an operation with its
operands on the ports, or assert RESET. The model's own type (log 4, log 5). -/
inductive Request
  | command (cmd : CmdWord) (ports : Inputs)
  | reset
deriving DecidableEq, Repr

/-- The frame buffer's contents: an ordered byte sequence, offset = position (10_state.md R14). It is the only memory
of the block (20_memory.md R30; log 8). -/
abbrev Memory := List Byte

/-- The whole state. The first six fields are the registers of 10_state.md R10; `inp` and `out` are the ports of
00_scope.md R7 (log 3); `program` is the model's own: what the caller will issue next, in order (log 4). -/
structure State where
  /-- `CRC_ACC` (10_state.md R11). -/
  crcAcc : BitVec 32
  /-- `SEQ_CNT` (10_state.md R12): the next sequence count to issue. -/
  seqCnt : BitVec 14
  /-- `ST` (10_state.md R15). -/
  st : SyncState
  /-- `WIN`, empty or exactly one byte (10_state.md R13). -/
  win : Option Byte
  /-- `FBUF` (10_state.md R14). -/
  fbuf : Memory
  /-- `DLEN` (10_state.md R16). -/
  dlen : BitVec 16
  inp : Inputs
  out : Outputs
  program : List Request
deriving DecidableEq, Repr

/-- Why a step stops. Both are raised in states that no run from reset reaches. -/
inductive Fault
  /-- Raised by an append to `FBUF` when it already holds `FBUF_CAP` bytes: there is no such byte of memory
  (10_state.md R14, 43_synchronizer.md R106; log 8). Safe: the model stops. -/
  | fbufFull
  /-- Raised by SYNC.FEED while `ST` rests in VALID or CRC_ERROR: the spec gives no case for it, since `ST` never rests
  there (10_state.md R15, 43_synchronizer.md R102; log 9). Safe: the model stops. -/
  | transientState
deriving DecidableEq, Repr

/-- Why a step has no meaning. -/
inductive Refusal
  /-- Raised by `exec` for an instruction without a meaning in this model; no arm does. Safe: nothing runs. -/
  | notModelled (mnemonic : String)
deriving DecidableEq, Repr

/-- A header of zeros: what the field ports carry at reset in this model (log 6). -/
def Inputs.zeroHeader : Header :=
  { version := 0, packetType := 0, secondaryHeaderFlag := 0, apid := 0, sequenceFlags := 0,
    sequenceCount := 0, dataLength := 0, timingInfo := 0, segmentNumber := 0, functionCode := 0,
    addressCode := 0 }

/-- Input ports with nothing on them: what they carry at reset in this model (log 6). -/
def Inputs.idle : Inputs :=
  { crcBuf := [], hdr := Inputs.zeroHeader, apidIn := 0, hdrBytes := [], payload := [], frame := [] }

/-- A block built with the parameters `c`, right after RESET: the six registers as 10_state.md R25 and
70_reset_and_hazards.md R135 say, no event and no result (R135); the ports and the caller's program as log 6 says. -/
def State.resetUnder (c : Config) : State :=
  { crcAcc := 0xFFFFFFFF, seqCnt := c.seqInit, st := .idle, win := none, fbuf := [],
    dlen := 0, inp := Inputs.idle, out := Outputs.quiet, program := [] }

/-- This hardware right after RESET: the parameters at their defaults (00_scope.md R5). -/
def State.reset : State := State.resetUnder Config.hardware

end Sys2Proof.Machine
end

