-- ==== Sys2Proof/Machine/Operands.lean ====
section
/-! DEFINITION. Byte sequences and their big-endian reading and writing (00_scope.md section 7.2), the packed header
(30_encoding.md R47, R48), and the values formed from the input ports. -/

namespace Sys2Proof.Machine

/-- `B[i]`. Every use reads inside the bytes present (44_arithmetic_control_access.md R112); outside it is 0 (log 11). -/
def byteAt (B : List Byte) (i : Nat) : Byte := B.getD i 0

/-- `be16(B, i)` (00_scope.md section 7.2). -/
def be16 (B : List Byte) (i : Nat) : BitVec 16 := byteAt B i ++ byteAt B (i + 1)

/-- `be32(B, i)` (00_scope.md section 7.2). -/
def be32 (B : List Byte) (i : Nat) : BitVec 32 := be16 B i ++ be16 B (i + 2)

/-- `be48(B, i)` (00_scope.md section 7.2). -/
def be48 (B : List Byte) (i : Nat) : BitVec 48 := be16 B i ++ be32 B (i + 2)

/-- `to_be16(v)` (00_scope.md section 7.2). -/
def toBe16 (v : BitVec 16) : List Byte := [v.extractLsb' 8 8, v.extractLsb' 0 8]

/-- `to_be32(v)` (00_scope.md section 7.2). -/
def toBe32 (v : BitVec 32) : List Byte :=
  [v.extractLsb' 24 8, v.extractLsb' 16 8, v.extractLsb' 8 8, v.extractLsb' 0 8]

/-- `to_be48(v)` (00_scope.md section 7.2). -/
def toBe48 (v : BitVec 48) : List Byte :=
  [v.extractLsb' 40 8, v.extractLsb' 32 8, v.extractLsb' 24 8, v.extractLsb' 16 8, v.extractLsb' 8 8,
    v.extractLsb' 0 8]

/-- `W0 = version << 13 | packet_type << 12 | secondary_header_flag << 11 | apid` (30_encoding.md R47). -/
def headerWord0 (h : Header) : BitVec 16 :=
  (h.version.setWidth 16 <<< 13) ||| (h.packetType.setWidth 16 <<< 12) |||
    (h.secondaryHeaderFlag.setWidth 16 <<< 11) ||| h.apid.setWidth 16

/-- `W1 = sequence_flags << 14 | sequence_count` (30_encoding.md R47). -/
def headerWord1 (h : Header) : BitVec 16 :=
  (h.sequenceFlags.setWidth 16 <<< 14) ||| h.sequenceCount.setWidth 16

/-- The sixteen bytes of a packed header, most significant byte first (41_header.md R75, 30_encoding.md R47). -/
def packHeader (h : Header) : List Byte :=
  toBe16 (headerWord0 h) ++ toBe16 (headerWord1 h) ++ toBe16 h.dataLength ++ toBe48 h.timingInfo ++
    [h.segmentNumber] ++ [h.functionCode] ++ toBe16 h.addressCode

/-- The fields read from the first sixteen bytes of `B` (41_header.md R76, 30_encoding.md R48). -/
def unpackHeader (B : List Byte) : Header :=
  { version := (be16 B 0).extractLsb' 13 3
    packetType := (be16 B 0).extractLsb' 12 1
    secondaryHeaderFlag := (be16 B 0).extractLsb' 11 1
    apid := (be16 B 0).extractLsb' 0 11
    sequenceFlags := (be16 B 2).extractLsb' 14 2
    sequenceCount := (be16 B 2).extractLsb' 0 14
    dataLength := be16 B 4
    timingInfo := be48 B 6
    segmentNumber := byteAt B 12
    functionCode := byteAt B 13
    addressCode := be16 B 14 }

/-- `apid_in & 0x7FF` (42_codec.md R86; 44_arithmetic_control_access.md R110 (b)). -/
def maskApid (v : BitVec 16) : BitVec 11 := (v &&& 0x7FF).setWidth 11

/-- `data_length = SEC_HDR_LEN + N + CRC_LEN - LEN_ADJ`, an integer stored in 16 bits (42_codec.md R86,
44_arithmetic_control_access.md R110 (c)). -/
def builtDataLength (c : Config) (n : Nat) : BitVec 16 :=
  BitVec.ofNat 16 (secHdrLen + n + crcLen - c.lenAdj.val)

/-- The Packet that PKT.BUILD makes from the ports with the sequence count `n` (42_codec.md R86). -/
def builtPacket (c : Config) (p : Inputs) (n : BitVec 14) : Packet :=
  { header := { p.hdr with
      apid := maskApid p.apidIn
      sequenceCount := n
      dataLength := builtDataLength c p.payload.length }
    payload := p.payload }

/-- The Packet on the ports, as FRAME.SER takes it: all eleven field ports as they stand (42_codec.md R87). -/
def portPacket (p : Inputs) : Packet := { header := p.hdr, payload := p.payload }

/-- `payload_len = data_length - SEC_HDR_LEN - CRC_LEN + LEN_ADJ`, a mathematical integer that may be negative
(42_codec.md R88 step 3, 44_arithmetic_control_access.md R110 (e)). -/
def declaredPayloadLen (c : Config) (h : Header) : Int :=
  (h.dataLength.toNat : Int) - secHdrLen - crcLen + c.lenAdj.val

/-- `frame_len = DLEN + 6 + LEN_ADJ` (10_state.md R17, 44_arithmetic_control_access.md R110 (g)). -/
def frameLenOf (c : Config) (d : BitVec 16) : Nat := d.toNat + priHdrLen + c.lenAdj.val

end Sys2Proof.Machine
end

