-- ==== Sys2Proof/Machine/Ops.lean ====
section
/-! DEFINITION. The shared operations: the CRC function, the frame buffer, the ends of an operation (a result, an event,
an error), RESET and the counter. -/

namespace Sys2Proof.Machine

/-! ### The CRC function (40_crc32.md R65, R66) -/

/-- One of the eight iterations of `crc_step` (40_crc32.md R66). -/
def crcBit (a : BitVec 32) : BitVec 32 :=
  if a.getLsbD 0 then (a >>> 1) ^^^ crcPolyReflected else a >>> 1

/-- `crc_step(acc, b)` (40_crc32.md R66): the byte enters the low 8 bits, then eight iterations. -/
def crcStep (acc : BitVec 32) (b : Byte) : BitVec 32 :=
  crcBit (crcBit (crcBit (crcBit (crcBit (crcBit (crcBit (crcBit (acc ^^^ b.setWidth 32))))))))

/-- `crc_fold(acc, B)` (40_crc32.md R66). -/
def crcFold (acc : BitVec 32) : List Byte → BitVec 32
  | [] => acc
  | b :: B => crcFold (crcStep acc b) B

/-- `crc32(B)` (40_crc32.md R65, R66); it uses no register (R72). -/
def crc32 (B : List Byte) : BitVec 32 := crcFold crcAllOnes B ^^^ crcAllOnes

/-! ### The ends of an operation -/

/-- The operation ends normally with these results (00_scope.md section 7.3, `return`). -/
def finish (o : Outputs) (s : State) : Host.Outcome State Fault Refusal := .next { s with out := o }

/-- The operation raises an error: it writes no register and produces nothing but the kind and its datum; the next
operation executes normally (60_exceptions.md R120, R121). This is the block's whole exception entry, and there is no
return from it (R121). -/
def raiseError (e : Err) (info : Option Nat) (s : State) : Host.Outcome State Fault Refusal :=
  finish { Outputs.quiet with err := e, errInfo := info } s

/-- The operation ends with an event (00_scope.md section 7.3, `emit`). -/
def emit (e : Event) (s : State) : Host.Outcome State Fault Refusal :=
  finish { Outputs.quiet with ev := some e } s

/-- The results of an operation whose result is a Packet: the header field ports and the payload (42_codec.md R86, R88). -/
def packetResult (p : Packet) : Outputs :=
  { Outputs.quiet with hdr := some p.header, payload := some p.payload }

/-! ### The frame buffer (44_arithmetic_control_access.md R112) -/

/-- The buffer holds at most `FBUF_CAP` bytes (10_state.md R14). -/
def Memory.wf (c : Config) (m : Memory) : Bool := m.length ≤ c.fbufCap

/-- The byte of `FBUF` at an offset, if it is one of the bytes accumulated so far. -/
def fbufByte (s : State) (a : Nat) : Option Byte := s.fbuf[a]?

/-- `MemWrite(len(FBUF), 1, b)`, the append, then what follows; at full capacity there is no byte to write
(00_scope.md section 7.3, 10_state.md R14; log 8). -/
def appendThen (c : Config) (b : Byte) (s : State) (k : State → Host.Outcome State Fault Refusal) :
    Host.Outcome State Fault Refusal :=
  if s.fbuf.length < c.fbufCap then k { s with fbuf := s.fbuf ++ [b] } else .fault .fbufFull

/-- `FBUF <- []; WIN <- []; DLEN <- 0; ST <- IDLE` (43_synchronizer.md R98, R100, R103). -/
def clearSync (s : State) : State := { s with fbuf := [], win := none, dlen := 0, st := .idle }

/-! ### The counter and RESET -/

/-- `SEQ_CNT <- (SEQ_CNT + 1) mod 0x4000` (41_header.md R78); 14 bits drop the carry (44_arithmetic_control_access.md
R110 (a)). -/
def advanceSeq (s : State) : State := { s with seqCnt := s.seqCnt + 1 }

/-- RESET: every register to its reset value, no event and no result (70_reset_and_hazards.md R135, 10_state.md R25). -/
def applyReset (c : Config) (s : State) : State :=
  { s with crcAcc := crcAllOnes, seqCnt := c.seqInit, st := .idle, win := none, fbuf := [], dlen := 0,
           out := Outputs.quiet }

end Sys2Proof.Machine
end

