-- ==== Sys2Proof/Machine/Codec.lean ====
section
/-! DEFINITION. The frame codec (42_codec.md R86, R87, R88). -/

namespace Sys2Proof.Machine

/-- Construction with the sequence count `n`: the size test first, then the Packet (42_codec.md R86, R90). -/
def buildPacket (c : Config) (n : BitVec 14) (s : State) : Host.Outcome State Fault Refusal :=
  if maxPayload < s.inp.payload.length then raiseError .payloadTooLarge (some s.inp.payload.length) s
  else finish (packetResult (builtPacket c s.inp n)) s

/-- `PKT.BUILD` (42_codec.md R86): the sequence count is the caller's, on its port. -/
def execPktBuild (s : State) : Host.Outcome State Fault Refusal :=
  buildPacket Config.hardware s.inp.hdr.sequenceCount s

/-- The frame of a Packet: packed header, payload, CRC-32 of both most significant byte first (42_codec.md R87,
30_encoding.md R46, R52). -/
def frameOf (p : Packet) : List Byte :=
  packHeader p.header ++ p.payload ++ toBe32 (crc32 (packHeader p.header ++ p.payload))

/-- The frame with the marker `55 AA` before it where it is asked for (42_codec.md R87, 30_encoding.md R45). -/
def serialize (p : Packet) (includeSync : Bool) : List Byte :=
  if includeSync then [sync0, sync1] ++ frameOf p else frameOf p

/-- `FRAME.SER p, include_sync` (42_codec.md R87): the header is packed as it stands. -/
def execFrameSer (includeSync : Bool) (s : State) : Host.Outcome State Fault Refusal :=
  finish { Outputs.quiet with
    frame := some (serialize (portPacket s.inp) includeSync)
    frameLen := some (serialize (portPacket s.inp) includeSync).length } s

/-- Step 1 of FRAME.DES (42_codec.md R88): what remains after the marker, or nothing where it is asked for and absent. -/
def afterMarker (expectSync : Bool) (B : List Byte) : Option (List Byte) :=
  if expectSync then
    match B with
    | m0 :: m1 :: R => if m0 = sync0 ∧ m1 = sync1 then some R else none
    | [_] => none
    | [] => none
  else some B

/-- Steps 4 and 5 of FRAME.DES (42_codec.md R88), for a declared payload of `n` bytes that fits. -/
def decodedFrame (R : List Byte) (n : Nat) : Outputs :=
  { packetResult { header := unpackHeader (R.take hdrLen), payload := (R.drop hdrLen).take n } with
    crcValid := some (crc32 (R.take (hdrLen + n)) == be32 R (hdrLen + n))
    crcRx := some (be32 R (hdrLen + n))
    crcCalc := some (crc32 (R.take (hdrLen + n))) }

/-- Step 3 of FRAME.DES (42_codec.md R88): the declared payload length against what is there, and the surplus bytes
under `SURPLUS_POLICY`; then steps 4 and 5. -/
def checkLength (c : Config) (R : List Byte) (payloadLen : Int) (s : State) :
    Host.Outcome State Fault Refusal :=
  if payloadLen < 0 then raiseError .invalidLength none s
  else if (R.length : Int) < hdrLen + payloadLen + crcLen then raiseError .invalidLength none s
  else if hdrLen + payloadLen + crcLen < (R.length : Int) ∧ c.surplusPolicy = .invalidLength then
    raiseError .invalidLength none s
  else finish (decodedFrame R payloadLen.toNat) s

/-- FRAME.DES under a configuration, on the buffer `B` (42_codec.md R88, steps 1 to 5). -/
def deserialize (c : Config) (expectSync : Bool) (B : List Byte) (s : State) :
    Host.Outcome State Fault Refusal :=
  match afterMarker expectSync B with
  | none => raiseError .syncMismatch none s
  | some R =>
    if R.length < minFrame then raiseError .tooShort (some R.length) s
    else checkLength c R (declaredPayloadLen c (unpackHeader (R.take hdrLen))) s

/-- `FRAME.DES B, expect_sync` (42_codec.md R88). -/
def execFrameDes (expectSync : Bool) (s : State) : Host.Outcome State Fault Refusal :=
  deserialize Config.hardware expectSync s.inp.frame s

end Sys2Proof.Machine
end

