-- ==== Sys2Proof/Machine/Crc.lean ====
section
/-! DEFINITION. The CRC operations (40_crc32.md R67 to R70). -/

namespace Sys2Proof.Machine

/-- `CRC.INIT` (40_crc32.md R67). -/
def execCrcInit (s : State) : Host.Outcome State Fault Refusal :=
  finish Outputs.quiet { s with crcAcc := crcAllOnes }

/-- `CRC.UPDATE b` (40_crc32.md R68). -/
def execCrcUpdate (b : Byte) (s : State) : Host.Outcome State Fault Refusal :=
  finish Outputs.quiet { s with crcAcc := crcStep s.crcAcc b }

/-- `CRC.FINAL`: `CRC_ACC` is left as it is (40_crc32.md R69). -/
def execCrcFinal (s : State) : Host.Outcome State Fault Refusal :=
  finish { Outputs.quiet with crcOut := some (s.crcAcc ^^^ crcAllOnes) } s

/-- `CRC.COMPUTE B`: reads and writes no register (40_crc32.md R70). -/
def execCrcCompute (s : State) : Host.Outcome State Fault Refusal :=
  finish { Outputs.quiet with crcOut := some (crc32 s.inp.crcBuf) } s

end Sys2Proof.Machine
end

