-- ==== Sys2Proof/Machine/Header.lean ====
section
/-! DEFINITION. The header packer and unpacker and the sequence counter (41_header.md R75, R76, R78, R79). -/

namespace Sys2Proof.Machine

/-- `HDR.PACK h` (41_header.md R75): `data_length` is packed as given. -/
def execHdrPack (s : State) : Host.Outcome State Fault Refusal :=
  finish { Outputs.quiet with hdrBytes := some (packHeader s.inp.hdr) } s

/-- `HDR.UNPACK B` (41_header.md R76): `TruncatedHeader` below 16 bytes; bytes after the sixteenth are ignored. -/
def execHdrUnpack (s : State) : Host.Outcome State Fault Refusal :=
  if s.inp.hdrBytes.length < hdrLen then raiseError .truncatedHeader (some s.inp.hdrBytes.length) s
  else finish { Outputs.quiet with hdr := some (unpackHeader s.inp.hdrBytes) } s

/-- `SEQ.NEXT` (41_header.md R78): returns the stored value, then increments. -/
def execSeqNext (s : State) : Host.Outcome State Fault Refusal :=
  finish { Outputs.quiet with seqOut := some s.seqCnt } (advanceSeq s)

/-- SEQ.RESET under a configuration (41_header.md R79). -/
def resetSeq (c : Config) (s : State) : Host.Outcome State Fault Refusal :=
  finish Outputs.quiet { s with seqCnt := c.seqInit }

/-- `SEQ.RESET` (41_header.md R79). -/
def execSeqReset (s : State) : Host.Outcome State Fault Refusal := resetSeq Config.hardware s

end Sys2Proof.Machine
end

