-- ==== Sys2Proof/Machine/Reserved.lean ====
section
/-! DEFINITION. The reserved selectors (30_encoding.md R58): no state change, no result, error code 15 (log 1). -/

namespace Sys2Proof.Machine

/-- A word with `op` = 0x0 (30_encoding.md R58). -/
def execReserved0 (s : State) : Host.Outcome State Fault Refusal := raiseError .reservedOp none s

/-- A word with `op` = 0xE (30_encoding.md R58). -/
def execReservedE (s : State) : Host.Outcome State Fault Refusal := raiseError .reservedOp none s

/-- A word with `op` = 0xF (30_encoding.md R58). -/
def execReservedF (s : State) : Host.Outcome State Fault Refusal := raiseError .reservedOp none s

end Sys2Proof.Machine
end

