-- ==== Sys2Proof/Machine/Sync.lean ====
section
/-! DEFINITION. The frame synchronizer (43_synchronizer.md R96 to R103, R109), one definition per state. -/

namespace Sys2Proof.Machine

/-- State IDLE: the byte is kept as the first of the search window (43_synchronizer.md R96). -/
def feedIdle (b : Byte) (s : State) : Host.Outcome State Fault Refusal :=
  emit .noEvent { s with fbuf := [], win := some b, dlen := 0, st := .sync }

/-- State SYNC (43_synchronizer.md R97). With an empty window, which no run reaches in this state, the byte becomes the
first of the window (R96, "exactly as if the machine had been in SYNC with an empty window"; log 10). -/
def feedSync (b : Byte) (s : State) : Host.Outcome State Fault Refusal :=
  match s.win with
  | none => emit .noEvent { s with win := some b }
  | some w =>
    if w = sync0 ∧ b = sync1 then
      emit .noEvent { s with win := none, fbuf := [], st := .primaryHeader }
    else emit .syncMismatch { s with win := some b }

/-- A declared length below `MIN_DLEN`, under `SHORT_LEN_POLICY` (43_synchronizer.md R109). -/
def shortLength (c : Config) (s : State) : Host.Outcome State Fault Refusal :=
  match c.shortLenPolicy with
  | .abort => emit .invalidLength (clearSync s)

/-- The sixth primary-header byte is in: `data_length` is taken and tested (43_synchronizer.md R98). -/
def takeDataLength (c : Config) (s : State) : Host.Outcome State Fault Refusal :=
  if (be16 s.fbuf 4).toNat < c.minDlen then shortLength c s
  else emit .noEvent { s with dlen := be16 s.fbuf 4, st := .secondaryHeader }

/-- State PRIMARY_HEADER (43_synchronizer.md R98). -/
def feedPrimaryHeader (c : Config) (b : Byte) (s : State) : Host.Outcome State Fault Refusal :=
  appendThen c b s fun s1 =>
    if s1.fbuf.length = priHdrLen then takeDataLength c s1 else emit .noEvent s1

/-- State SECONDARY_HEADER (43_synchronizer.md R99). -/
def feedSecondaryHeader (c : Config) (b : Byte) (s : State) : Host.Outcome State Fault Refusal :=
  appendThen c b s fun s1 =>
    if s1.fbuf.length = hdrLen then emit .noEvent { s1 with st := .data } else emit .noEvent s1

/-- The terminal state a completed buffer `m` leads to, VALID or CRC_ERROR (43_synchronizer.md R100). -/
def verdict (c : Config) (d : BitVec 16) (m : Memory) : SyncState :=
  if crc32 (m.take (frameLenOf c d - crcLen)) = be32 m (frameLenOf c d - crcLen) then .valid else .crcError

/-- What is handed over with a completed buffer `m` (43_synchronizer.md R100, R101). -/
def handOver (c : Config) (d : BitVec 16) (m : Memory) : HandedFrame :=
  { frm := m
    frmLen := BitVec.ofNat 17 (frameLenOf c d)
    crcRx := be32 m (frameLenOf c d - crcLen)
    crcCalc := crc32 (m.take (frameLenOf c d - crcLen)) }

/-- The event of a completed buffer `m` (43_synchronizer.md R100). -/
def frameEvent (c : Config) (d : BitVec 16) (m : Memory) : Event :=
  if verdict c d m = .valid then .frameValid (handOver c d m) else .frameCrcError (handOver c d m)

/-- The last byte of the frame is in: the verdict is entered, the frame handed over, the machine reset to IDLE, all in
this operation (43_synchronizer.md R100, R101). -/
def completeFrame (c : Config) (s : State) : Host.Outcome State Fault Refusal :=
  emit (frameEvent c s.dlen s.fbuf) (clearSync { s with st := verdict c s.dlen s.fbuf })

/-- State DATA (43_synchronizer.md R100): complete when `FBUF` holds `frame_len` bytes (90_conflicts.md C3). -/
def feedData (c : Config) (b : Byte) (s : State) : Host.Outcome State Fault Refusal :=
  appendThen c b s fun s1 =>
    if s1.fbuf.length = frameLenOf c s1.dlen then completeFrame c s1 else emit .noEvent s1

/-- SYNC.FEED under a configuration: the case analysis on the current `ST`, total over the five resting states
(43_synchronizer.md R102); the transient states have no case (log 9). -/
def feed (c : Config) (b : Byte) (s : State) : Host.Outcome State Fault Refusal :=
  match s.st with
  | .idle => feedIdle b s
  | .sync => feedSync b s
  | .primaryHeader => feedPrimaryHeader c b s
  | .secondaryHeader => feedSecondaryHeader c b s
  | .data => feedData c b s
  | .valid => .fault .transientState
  | .crcError => .fault .transientState

/-- `SYNC.FEED b` (43_synchronizer.md R102). -/
def execSyncFeed (b : Byte) (s : State) : Host.Outcome State Fault Refusal := feed Config.hardware b s

/-- `SYNC.EXHAUST` (43_synchronizer.md R103): the reset is done at once (90_conflicts.md C5). -/
def execSyncExhaust (s : State) : Host.Outcome State Fault Refusal := emit .noEvent (clearSync s)

end Sys2Proof.Machine
end

