-- ==== Sys2Proof/Machine/Dispatch.lean ====
section
/-! DEFINITION. One arm per operation of spec/opcode_table.json. -/

namespace Sys2Proof.Machine

def exec (i : Instr) (s : State) : Host.Outcome State Fault Refusal :=
  match i with
  | .crcInit _ => Sys2Proof.Machine.execCrcInit s
  | .crcUpdate b => Sys2Proof.Machine.execCrcUpdate b s
  | .crcFinal _ => Sys2Proof.Machine.execCrcFinal s
  | .crcCompute _ => Sys2Proof.Machine.execCrcCompute s
  | .hdrPack _ => Sys2Proof.Machine.execHdrPack s
  | .hdrUnpack _ => Sys2Proof.Machine.execHdrUnpack s
  | .seqNext _ => Sys2Proof.Machine.execSeqNext s
  | .seqReset _ => Sys2Proof.Machine.execSeqReset s
  | .pktBuild _ => Sys2Proof.Machine.execPktBuild s
  | .frameSer includeSync _ => Sys2Proof.Machine.execFrameSer includeSync s
  | .frameDes expectSync _ => Sys2Proof.Machine.execFrameDes expectSync s
  | .syncFeed b => Sys2Proof.Machine.execSyncFeed b s
  | .syncExhaust _ => Sys2Proof.Machine.execSyncExhaust s
  | .reserved0 _ => Sys2Proof.Machine.execReserved0 s
  | .reservedE _ => Sys2Proof.Machine.execReservedE s
  | .reservedF _ => Sys2Proof.Machine.execReservedF s

end Sys2Proof.Machine
end

