-- ==== Sys2Proof/WellFormed.lean ====
section
/-! DEFINITION. What is well formed: the canonical form of an operation (30_encoding.md R54) and the length
invariant of a Packet (30_encoding.md R50, R51). Field widths need no check, the types hold them (41_header.md R80). -/

namespace Sys2Proof

/-- The bits of `imm8` that the operation ignores. -/
def Instr.ignoredBits : Instr → Nat
  | .crcInit x => x.toNat
  | .crcUpdate _ => 0
  | .crcFinal x => x.toNat
  | .crcCompute x => x.toNat
  | .hdrPack x => x.toNat
  | .hdrUnpack x => x.toNat
  | .seqNext x => x.toNat
  | .seqReset x => x.toNat
  | .pktBuild x => x.toNat
  | .frameSer _ x => x.toNat
  | .frameDes _ x => x.toNat
  | .syncFeed _ => 0
  | .syncExhaust x => x.toNat
  | .reserved0 x => x.toNat
  | .reservedE x => x.toNat
  | .reservedF x => x.toNat

/-- An operation in its canonical form: the ignored bits are 0 (30_encoding.md R54, "canonical value 0"). A form
that is not canonical still runs, and runs the same (D24). -/
def Instr.wf (i : Instr) : Bool := i.ignoredBits == 0

/-- An operation the block has, as against a reserved selector (00_scope.md R6, 30_encoding.md R58). -/
def Instr.isOperation : Instr → Bool
  | .reserved0 _ => false
  | .reservedE _ => false
  | .reservedF _ => false
  | .crcInit _ => true
  | .crcUpdate _ => true
  | .crcFinal _ => true
  | .crcCompute _ => true
  | .hdrPack _ => true
  | .hdrUnpack _ => true
  | .seqNext _ => true
  | .seqReset _ => true
  | .pktBuild _ => true
  | .frameSer _ _ => true
  | .frameDes _ _ => true
  | .syncFeed _ => true
  | .syncExhaust _ => true

/-- A Packet as PKT.BUILD makes them: at most `MAX_PAYLOAD` payload bytes (30_encoding.md R51) and a `data_length`
that satisfies the invariant `data_length = SEC_HDR_LEN + N + CRC_LEN - LEN_ADJ` (R50). A Packet put together field
by field need not be so (42_codec.md R85). -/
def Packet.wf (c : Config) (p : Packet) : Bool :=
  p.payload.length ≤ maxPayload &&
    p.header.dataLength.toNat == secHdrLen + p.payload.length + crcLen - c.lenAdj.val

end Sys2Proof
end

