-- ==== Sys2Proof/Decode.lean ====
section
/-! DEFINITION. The command word (30_encoding.md R54, R58): the decoder, total, and the encoder. -/

namespace Sys2Proof

/-- Why bits are no command word. -/
inductive DecodeError
  /-- Raised by `decode`: a bit above bit 11 is set, so the value does not fit the 12-bit port and cannot be
  presented to the block (00_scope.md R7). Safe: nothing runs. -/
  | widerThanCommandPort
deriving DecidableEq, Repr

/-- `op = CMD[11:8]`, the operation selector (30_encoding.md R54). -/
def opOf (w : CmdWord) : BitVec 4 := w.extractLsb' 8 4

/-- `b = CMD[7:0]`, unsigned, never scaled (30_encoding.md R58). -/
def immOf (w : CmdWord) : BitVec 8 := w.extractLsb' 0 8

/-- The option flag of FRAME.SER and FRAME.DES, `CMD[0]` (30_encoding.md R58). -/
def flagOf (w : CmdWord) : Bool := w.getLsbD 0

/-- `imm8[7:1]`, ignored by FRAME.SER and FRAME.DES (30_encoding.md R54). -/
def upperImmOf (w : CmdWord) : BitVec 7 := w.extractLsb' 1 7

/-- The operation a command word selects (30_encoding.md R54, the table). Every 12-bit word has one, the reserved
selectors among them; the last case is `op` = 0xF, since `op` has four bits. -/
def decodeCmd (w : CmdWord) : Instr :=
  match (opOf w).toNat with
  | 0x0 => .reserved0 (immOf w)
  | 0x1 => .crcInit (immOf w)
  | 0x2 => .crcUpdate (immOf w)
  | 0x3 => .crcFinal (immOf w)
  | 0x4 => .crcCompute (immOf w)
  | 0x5 => .hdrPack (immOf w)
  | 0x6 => .hdrUnpack (immOf w)
  | 0x7 => .seqNext (immOf w)
  | 0x8 => .seqReset (immOf w)
  | 0x9 => .pktBuild (immOf w)
  | 0xA => .frameSer (flagOf w) (upperImmOf w)
  | 0xB => .frameDes (flagOf w) (upperImmOf w)
  | 0xC => .syncFeed (immOf w)
  | 0xD => .syncExhaust (immOf w)
  | 0xE => .reservedE (immOf w)
  | _ => .reservedF (immOf w)

/-- The decoder on any number of bits, given as a number: it rejects what does not fit the command port (log 12). -/
def decode (w : Nat) : Except DecodeError Instr :=
  if w < 0x1000 then .ok (decodeCmd (BitVec.ofNat 12 w)) else .error .widerThanCommandPort

/-- The instruction the decoder reads from the low `nbits` bits of `w`, numbered as spec/opcode_table.json numbers
them; a command word is one word of 12 bits and is not stored in bytes (30_encoding.md R54; log 12). -/
def decodeTableWord (nbits w : Nat) : Option Instr :=
  match decode (w % 2 ^ nbits) with
  | .ok i => some i
  | .error _ => none

/-- The selector `op` of an operation (30_encoding.md R54, the table). -/
def selectorOf : Instr → BitVec 4
  | .reserved0 _ => 0x0
  | .crcInit _ => 0x1
  | .crcUpdate _ => 0x2
  | .crcFinal _ => 0x3
  | .crcCompute _ => 0x4
  | .hdrPack _ => 0x5
  | .hdrUnpack _ => 0x6
  | .seqNext _ => 0x7
  | .seqReset _ => 0x8
  | .pktBuild _ => 0x9
  | .frameSer _ _ => 0xA
  | .frameDes _ _ => 0xB
  | .syncFeed _ => 0xC
  | .syncExhaust _ => 0xD
  | .reservedE _ => 0xE
  | .reservedF _ => 0xF

/-- `imm8` of an operation (30_encoding.md R54, the column "use of imm8"). -/
def immediateOf : Instr → BitVec 8
  | .reserved0 x => x
  | .crcInit x => x
  | .crcUpdate b => b
  | .crcFinal x => x
  | .crcCompute x => x
  | .hdrPack x => x
  | .hdrUnpack x => x
  | .seqNext x => x
  | .seqReset x => x
  | .pktBuild x => x
  | .frameSer flag x => x ++ BitVec.ofBool flag
  | .frameDes flag x => x ++ BitVec.ofBool flag
  | .syncFeed b => b
  | .syncExhaust x => x
  | .reservedE x => x
  | .reservedF x => x

/-- The command word of an operation, `CMD = {op, imm8}` (30_encoding.md R54). -/
def encode (i : Instr) : CmdWord := selectorOf i ++ immediateOf i

end Sys2Proof
end

