-- ==== Sys2Proof/Machine/Issue.lean ====
section
/-! DEFINITION. What stands where a processor has its fetch: taking the caller's next request (00_scope.md R4,
10_state.md R18; log 4). -/

namespace Sys2Proof.Machine

/-- The caller's next request, taken from `program`: nothing, a RESET, or an operation with its operands placed on the
input ports. -/
inductive Issued
  | nothing
  | reset (s : State)
  | operation (i : Instr) (s : State)
deriving DecidableEq, Repr

/-- Take the next request of `program` (log 4). -/
def nextIssued (s : State) : Issued :=
  match s.program with
  | [] => .nothing
  | .reset :: rest => .reset { s with program := rest }
  | .command w ports :: rest => .operation (decodeCmd w) { s with program := rest, inp := ports }

/-- One step of a block with the parameters `c` whose operations execute by `run`: the next request, executed whole
(00_scope.md R3, R4). With nothing issued the block is idle and keeps all its state (10_state.md R18, 60_exceptions.md
R127). -/
def stepBy (run : Instr → State → Host.Outcome State Fault Refusal) (c : Config) (s : State) :
    Host.Outcome State Fault Refusal :=
  match nextIssued s with
  | .nothing => .next s
  | .reset t => .next (applyReset c t)
  | .operation i t => run i t

/-- The caller issues the command word `w` next, with the operands now on the ports, before what it was going to issue. -/
def issueFirst (w : CmdWord) (s : State) : State :=
  { s with program := .command w s.inp :: s.program }

end Sys2Proof.Machine
end

