-- ==== Sys2Proof/Machine/Step.lean ====
section
/-! DEFINITION. One step: the caller's next request is executed whole (00_scope.md R3, R4). -/

namespace Sys2Proof.Machine

/-- One step of this hardware. -/
def step (s : State) : Host.Outcome State Fault Refusal := stepBy exec Config.hardware s

/-- `s` with the command word `w` (its low `nbits` bits, at most 12 of them) issued next (log 4, log 12). -/
def State.withFetchWord (s : State) (nbits w : Nat) : State :=
  issueFirst (BitVec.ofNat 12 (w % 2 ^ nbits)) s

end Sys2Proof.Machine
end

