-- ==== Sys2Proof/Machine/Flags.lean ====
section
/-! DEFINITION. The result codes on the ports (30_encoding.md R55, R56, R57). The block keeps no flag (10_state.md R20). -/

namespace Sys2Proof.Machine

/-- The number of an error kind on port `err` (30_encoding.md R55). -/
def errCode : Err → BitVec 4
  | .noError => 0
  | .truncatedHeader => 1
  | .tooShort => 2
  | .syncMismatch => 3
  | .invalidLength => 4
  | .crcMismatch => 5
  | .missingField => 6
  | .invalidPacketType => 7
  | .badHexValue => 8
  | .payloadTooLarge => 9
  | .reservedOp => 15

/-- The number of an event on port `ev` (30_encoding.md R56). -/
def eventCode : Event → BitVec 3
  | .noEvent => 0
  | .syncMismatch => 1
  | .frameValid _ => 2
  | .frameCrcError _ => 3
  | .invalidLength => 4

/-- The number of a synchronizer state (30_encoding.md R57). -/
def stCode : SyncState → BitVec 3
  | .idle => 0
  | .sync => 1
  | .primaryHeader => 2
  | .secondaryHeader => 3
  | .data => 4
  | .valid => 5
  | .crcError => 6

/-- Port `st`: the current `ST` (00_scope.md R7). -/
def stPort (s : State) : BitVec 3 := stCode s.st

/-- Port `err` (00_scope.md R7). -/
def errPort (s : State) : BitVec 4 := errCode s.out.err

/-- Port `ev`, where the last operation produced an event (00_scope.md R7). -/
def evPort (s : State) : Option (BitVec 3) := s.out.ev.map eventCode

/-- Ports `frm`, `frm_len`, `frm_crc_rx`, `frm_crc_calc`: what the last event handed over (30_encoding.md R56). -/
def handedOver (s : State) : Option HandedFrame :=
  match s.out.ev with
  | some (.frameValid f) => some f
  | some (.frameCrcError f) => some f
  | some .noEvent => none
  | some .syncMismatch => none
  | some .invalidLength => none
  | none => none

end Sys2Proof.Machine
end

