-- ==== Sys2Proof/Machine/Pseudo.lean ====
section
/-! DEFINITION. The four pseudo-operations (30_encoding.md R60) as sequences of operations; they have no command word
(log 16). -/

namespace Sys2Proof.Machine

/-- Operations issued one after the other, with the operands on the ports unchanged; the first that stops, stops all. -/
def execAll : List Instr → State → Host.Outcome State Fault Refusal
  | [], s => .next s
  | i :: is, s =>
    match exec i s with
    | .next t => execAll is t
    | .fault r => .fault r
    | .refused r => .refused r

/-- `CRC32 B`, another name of CRC.COMPUTE (30_encoding.md R60). -/
def pseudoCrc32 : List Instr := [.crcCompute 0]

/-- `CRC.STREAM [b0 .. bk]` (30_encoding.md R60, 40_crc32.md R71). -/
def pseudoCrcStream (B : List Byte) : List Instr :=
  [.crcInit 0] ++ B.map .crcUpdate ++ [.crcFinal 0]

/-- `SYNC.FEEDN [b0 .. bk]`: the feeds in order, with the list of their events (43_synchronizer.md R104). -/
def feedAll (c : Config) : List Byte → State → Host.Outcome (State × List Event) Fault Refusal
  | [], s => .next (s, [])
  | b :: B, s =>
    match feed c b s with
    | .next t =>
      match feedAll c B t with
      | .next (u, events) => .next (u, t.out.ev.toList ++ events)
      | .fault r => .fault r
      | .refused r => .refused r
    | .fault r => .fault r
    | .refused r => .refused r

/-- `SYNC.FEEDN B` on this hardware (30_encoding.md R60). -/
def pseudoSyncFeedN (B : List Byte) (s : State) : Host.Outcome (State × List Event) Fault Refusal :=
  feedAll Config.hardware B s

/-- `PKT.NEW` under a configuration (42_codec.md R90): the size test, then SEQ.NEXT, then PKT.BUILD with the returned
count; a refused construction leaves the counter alone. -/
def newPacket (c : Config) (s : State) : Host.Outcome State Fault Refusal :=
  if maxPayload < s.inp.payload.length then raiseError .payloadTooLarge (some s.inp.payload.length) s
  else
    match execSeqNext s with
    | .next t => buildPacket c s.seqCnt t
    | .fault r => .fault r
    | .refused r => .refused r

/-- `PKT.NEW` on this hardware (42_codec.md R90). -/
def pseudoPktNew (s : State) : Host.Outcome State Fault Refusal := newPacket Config.hardware s

end Sys2Proof.Machine
end

