-- ==== Sys2Proof/Reference.lean ====
section
/-! DEFINITION. Formulations of the spec that the machine does not use, against which statements compare it: the CRC in
normal form (40_crc32.md R65), the header as one number (30_encoding.md R48), the bytes of a CRC stream (40_crc32.md R71). -/

namespace Sys2Proof.Machine

/-- One shift of the CRC register in normal form: most significant bit first, polynomial 0x04C11DB7 (40_crc32.md R65). -/
def normalBit (a : BitVec 32) : BitVec 32 :=
  if a.getLsbD 31 then (a <<< 1) ^^^ 0x04C11DB7 else a <<< 1

/-- Eight shifts after a byte has entered the high 8 bits. -/
def normalStep (acc : BitVec 32) (b : Byte) : BitVec 32 := normalBit^[8] (acc ^^^ (b.setWidth 32 <<< 24))

/-- CRC-32 by its parameters: initial all-ones, input bytes reflected, output reflected, final exclusive-or all-ones
(40_crc32.md R65). -/
def normalCrc32 (B : List Byte) : BitVec 32 :=
  ((B.map BitVec.reverse).foldl normalStep 0xFFFFFFFF).reverse ^^^ 0xFFFFFFFF

/-- `HV`: the header as one 128-bit number, its fields in the order of the table (30_encoding.md R48). -/
def headerValue (h : Header) : BitVec 128 :=
  h.version ++ h.packetType ++ h.secondaryHeaderFlag ++ h.apid ++ h.sequenceFlags ++ h.sequenceCount ++
    h.dataLength ++ h.timingInfo ++ h.segmentNumber ++ h.functionCode ++ h.addressCode

/-- The byte `H[i]` of a header number: `HV[127:120]` is `H[0]`, `HV[7:0]` is `H[15]` (30_encoding.md R48). -/
def headerValueByte (v : BitVec 128) (i : Nat) : Byte := v.extractLsb' (8 * (15 - i)) 8

/-- The bytes given to CRC.UPDATE since the last CRC.INIT or RESET, after the requests, when they were `P` before
(40_crc32.md R71). -/
def streamBytes (P : List Byte) : List Request → List Byte
  | [] => P
  | .reset :: rs => streamBytes [] rs
  | .command w _ :: rs =>
    match decodeCmd w with
    | .crcInit _ => streamBytes [] rs
    | .crcUpdate b => streamBytes (P ++ [b]) rs
    | .crcFinal _ => streamBytes P rs
    | .crcCompute _ => streamBytes P rs
    | .hdrPack _ => streamBytes P rs
    | .hdrUnpack _ => streamBytes P rs
    | .seqNext _ => streamBytes P rs
    | .seqReset _ => streamBytes P rs
    | .pktBuild _ => streamBytes P rs
    | .frameSer _ _ => streamBytes P rs
    | .frameDes _ _ => streamBytes P rs
    | .syncFeed _ => streamBytes P rs
    | .syncExhaust _ => streamBytes P rs
    | .reserved0 _ => streamBytes P rs
    | .reservedE _ => streamBytes P rs
    | .reservedF _ => streamBytes P rs

/-- The marker `55 AA` stands nowhere in the bytes (43_synchronizer.md R105). -/
def NoMarker (S : List Byte) : Prop := ∀ i : Nat, ¬ (S[i]? = some 0x55 ∧ S[i + 1]? = some 0xAA)

/-- `B` with bit `j` of its byte `k` flipped. -/
def flipBit (B : List Byte) (k j : Nat) : List Byte := B.modify k (fun b => b ^^^ (1#8 <<< j))

end Sys2Proof.Machine
end

