-- ==== Sys2Proof/Machine/Configured.lean ====
section
/-! DEFINITION. The block under any value of its four build-time parameters (00_scope.md R5): its operations, its step and
its machine, beside `exec`, `step` and `core`, which are this hardware at the defaults (log 7). -/

namespace Sys2Proof.Machine

/-- The operations of a block built with the parameters `c`. SEQ.RESET reads `SEQ_INIT` (41_header.md R79), PKT.BUILD
`LEN_ADJ` (42_codec.md R86), FRAME.DES `LEN_ADJ` and `SURPLUS_POLICY` (R88), SYNC.FEED `LEN_ADJ` and `SHORT_LEN_POLICY`
(43_synchronizer.md R98, R100, R109); no other operation reads one. -/
def execUnder (c : Config) (i : Instr) (s : State) : Host.Outcome State Fault Refusal :=
  match i with
  | .crcInit _ => execCrcInit s
  | .crcUpdate b => execCrcUpdate b s
  | .crcFinal _ => execCrcFinal s
  | .crcCompute _ => execCrcCompute s
  | .hdrPack _ => execHdrPack s
  | .hdrUnpack _ => execHdrUnpack s
  | .seqNext _ => execSeqNext s
  | .seqReset _ => resetSeq c s
  | .pktBuild _ => buildPacket c s.inp.hdr.sequenceCount s
  | .frameSer includeSync _ => execFrameSer includeSync s
  | .frameDes expectSync _ => deserialize c expectSync s.inp.frame s
  | .syncFeed b => feed c b s
  | .syncExhaust _ => execSyncExhaust s
  | .reserved0 _ => execReserved0 s
  | .reservedE _ => execReservedE s
  | .reservedF _ => execReservedF s

/-- One step of a block built with the parameters `c`. -/
def stepUnder (c : Config) (s : State) : Host.Outcome State Fault Refusal := stepBy (execUnder c) c s

/-- The machine of a block built with the parameters `c`: its step, and its state after RESET. -/
def coreUnder (c : Config) : Host.Core :=
  { State := State, Fault := Fault, Refusal := Refusal, step := stepUnder c, reset := State.resetUnder c }

end Sys2Proof.Machine
end

