-- ==== Sys2Proof/Safety.lean ====
section
/-! DEFINITION. What counts as a good state and a safe run, in the terms the statements use. -/

namespace Sys2Proof.Machine

/-- The table of 10_state.md R24: exactly one row for each resting value of `ST`; VALID and CRC_ERROR never rest. -/
def Resting (c : Config) (s : State) : Bool :=
  match s.st with
  | .idle => s.win.isNone && s.fbuf.isEmpty && s.dlen == 0
  | .sync => s.win.isSome && s.fbuf.isEmpty && s.dlen == 0
  | .primaryHeader => s.win.isNone && decide (s.fbuf.length ≤ 5) && s.dlen == 0
  | .secondaryHeader =>
    s.win.isNone && decide (6 ≤ s.fbuf.length) && decide (s.fbuf.length ≤ 15) &&
      s.dlen == be16 s.fbuf 4 && decide (c.minDlen ≤ s.dlen.toNat)
  | .data =>
    s.win.isNone && decide (16 ≤ s.fbuf.length) && decide (s.fbuf.length + 1 ≤ frameLenOf c s.dlen) &&
      s.dlen == be16 s.fbuf 4 && decide (c.minDlen ≤ s.dlen.toNat)
  | .valid => false
  | .crcError => false

/-- The six registers of 10_state.md R10 are the same in both states. -/
def SameRegisters (s t : State) : Prop :=
  t.crcAcc = s.crcAcc ∧ t.seqCnt = s.seqCnt ∧ t.st = s.st ∧ t.win = s.win ∧ t.fbuf = s.fbuf ∧ t.dlen = s.dlen

/-- What belongs to the caller is the same in both states: the input ports and what is still to be issued. -/
def SameCaller (s t : State) : Prop := t.inp = s.inp ∧ t.program = s.program

/-- The edge list of `ST` for one operation (44_arithmetic_control_access.md R111); VALID and CRC_ERROR are passed
through inside the operation. -/
def StEdge : SyncState → SyncState → Bool
  | .idle, .sync => true
  | .sync, .sync => true
  | .sync, .primaryHeader => true
  | .primaryHeader, .primaryHeader => true
  | .primaryHeader, .secondaryHeader => true
  | .primaryHeader, .idle => true
  | .secondaryHeader, .secondaryHeader => true
  | .secondaryHeader, .data => true
  | .data, .data => true
  | .data, .idle => true
  | _, _ => false

/-- A safe run: `k` steps that neither fault nor are refused, and end in a state of the table of R24. -/
def RunsSafely (k : Nat) (s : State) : Prop :=
  ∃ t, Host.Core.run Sys2Proof.core k s = .next t ∧ Resting Config.hardware t = true

end Sys2Proof.Machine
end

