-- ==== Sys2Proof/Certificates/Slice0/Obligations.lean ====
section
/-! DEFINITION. The statements for the provers, family by family of spec/opcode_table.json. Each docstring names the rule
of spec/ it comes from; where a clause is the model's own choice, the log entry. -/

open Sys2Proof Sys2Proof.Machine

/-! ### Steps, reset, the command word -/

/-- A step executes the operation the caller issues next, with its operands on the input ports, and drops it from the
caller's list (10_state.md R18, 00_scope.md R4; the list is the model's choice, log 4); a RESET is dropped too and leaves the
ports and the rest of the list alone (the model's choice, log 5). -/
def Obligations.StepExecutesTheIssuedOperation : Prop :=
  (∀ (s : State) (w : CmdWord) (ports : Inputs) (rest : List Request),
    s.program = .command w ports :: rest →
      step s = exec (decodeCmd w) { s with program := rest, inp := ports }) ∧
  (∀ (s : State) (rest : List Request), s.program = .reset :: rest →
    ∃ t, step s = .next t ∧ t.inp = s.inp ∧ t.program = rest)

/-- With nothing issued, the block keeps all its state (10_state.md R18, 60_exceptions.md R127; log 4). -/
def Obligations.IdleBlockKeepsAllItsState : Prop :=
  ∀ s : State, s.program = [] → step s = .next s

/-- RESET and the partial resets (70_reset_and_hazards.md R135). -/
def Obligations.ResetLoadsEveryRegister : Prop :=
  (∀ (s : State) (rest : List Request), s.program = .reset :: rest →
    ∃ t, step s = .next t ∧ t.st = .idle ∧ t.win = none ∧ t.fbuf = [] ∧ t.dlen = 0 ∧ t.seqCnt = 0 ∧
      t.crcAcc = 0xFFFFFFFF ∧ t.out = Outputs.quiet ∧ Resting Config.hardware t = true) ∧
  (∀ (s : State) (x : BitVec 8), ∃ t, exec (.syncExhaust x) s = .next t ∧ t.st = .idle ∧ t.win = none ∧
    t.fbuf = [] ∧ t.dlen = 0 ∧ t.seqCnt = s.seqCnt ∧ t.crcAcc = s.crcAcc) ∧
  (∀ (s : State) (x : BitVec 8), ∃ t, exec (.seqReset x) s = .next t ∧ t.seqCnt = 0 ∧ t.crcAcc = s.crcAcc ∧
    t.st = s.st ∧ t.win = s.win ∧ t.fbuf = s.fbuf ∧ t.dlen = s.dlen) ∧
  (∀ (s : State) (x : BitVec 8), ∃ t, exec (.crcInit x) s = .next t ∧ t.crcAcc = 0xFFFFFFFF ∧
    t.seqCnt = s.seqCnt ∧ t.st = s.st ∧ t.win = s.win ∧ t.fbuf = s.fbuf ∧ t.dlen = s.dlen)

/-- The reset values of the registers (10_state.md R25). -/
def Obligations.ResetStateHoldsTheResetValues : Prop :=
  State.reset.st = .idle ∧ State.reset.win = none ∧ State.reset.fbuf = [] ∧ State.reset.dlen = 0 ∧
    State.reset.seqCnt = 0 ∧ State.reset.crcAcc = 0xFFFFFFFF

/-- The state after reset is in the table of 10_state.md R24. -/
def Obligations.ResetStateIsResting : Prop := Resting Config.hardware State.reset = true

/-- Words written out from the table of 30_encoding.md R54 decode to the operations they stand for. -/
def Obligations.WrittenOutWordsDecode : Prop :=
  decodeCmd 0b000100000000 = .crcInit 0 ∧ decodeCmd 0b001001100001 = .crcUpdate 0x61 ∧
  decodeCmd 0b010100000000 = .hdrPack 0 ∧ decodeCmd 0b011100000000 = .seqNext 0 ∧
  decodeCmd 0b101000000001 = .frameSer true 0 ∧ decodeCmd 0b101100000000 = .frameDes false 0 ∧
  decodeCmd 0b110010101010 = .syncFeed 0xAA ∧ decodeCmd 0b111001010101 = .reservedE 0x55

/-- The command word and its table: selector in bits 11 to 8, `imm8` in bits 7 to 0, the canonical words, and the
ignored bits of `imm8`, which change nothing (30_encoding.md R54). -/
def Obligations.CommandWordTable : Prop :=
  (∀ x : BitVec 8,
    decodeCmd (0x1#4 ++ x) = .crcInit x ∧ decodeCmd (0x2#4 ++ x) = .crcUpdate x ∧
    decodeCmd (0x3#4 ++ x) = .crcFinal x ∧ decodeCmd (0x4#4 ++ x) = .crcCompute x ∧
    decodeCmd (0x5#4 ++ x) = .hdrPack x ∧ decodeCmd (0x6#4 ++ x) = .hdrUnpack x ∧
    decodeCmd (0x7#4 ++ x) = .seqNext x ∧ decodeCmd (0x8#4 ++ x) = .seqReset x ∧
    decodeCmd (0x9#4 ++ x) = .pktBuild x ∧
    decodeCmd (0xA#4 ++ x) = .frameSer (x.getLsbD 0) (x.extractLsb' 1 7) ∧
    decodeCmd (0xB#4 ++ x) = .frameDes (x.getLsbD 0) (x.extractLsb' 1 7) ∧
    decodeCmd (0xC#4 ++ x) = .syncFeed x ∧ decodeCmd (0xD#4 ++ x) = .syncExhaust x ∧
    decodeCmd (0x0#4 ++ x) = .reserved0 x ∧ decodeCmd (0xE#4 ++ x) = .reservedE x ∧
    decodeCmd (0xF#4 ++ x) = .reservedF x) ∧
  (encode (.crcInit 0) = 0x100 ∧ encode (.crcFinal 0) = 0x300 ∧ encode (.crcCompute 0) = 0x400 ∧
    encode (.hdrPack 0) = 0x500 ∧ encode (.hdrUnpack 0) = 0x600 ∧ encode (.seqNext 0) = 0x700 ∧
    encode (.seqReset 0) = 0x800 ∧ encode (.pktBuild 0) = 0x900 ∧ encode (.frameSer false 0) = 0xA00 ∧
    encode (.frameSer true 0) = 0xA01 ∧ encode (.frameDes false 0) = 0xB00 ∧
    encode (.frameDes true 0) = 0xB01 ∧ encode (.syncExhaust 0) = 0xD00 ∧
    (∀ b : Byte, encode (.crcUpdate b) = 0x2#4 ++ b ∧ encode (.syncFeed b) = 0xC#4 ++ b)) ∧
  (∀ (x y : BitVec 8) (u v : BitVec 7) (f : Bool) (s : State),
    exec (.crcInit x) s = exec (.crcInit y) s ∧ exec (.crcFinal x) s = exec (.crcFinal y) s ∧
    exec (.crcCompute x) s = exec (.crcCompute y) s ∧ exec (.hdrPack x) s = exec (.hdrPack y) s ∧
    exec (.hdrUnpack x) s = exec (.hdrUnpack y) s ∧ exec (.seqNext x) s = exec (.seqNext y) s ∧
    exec (.seqReset x) s = exec (.seqReset y) s ∧ exec (.pktBuild x) s = exec (.pktBuild y) s ∧
    exec (.frameSer f u) s = exec (.frameSer f v) s ∧ exec (.frameDes f u) s = exec (.frameDes f v) s ∧
    exec (.syncExhaust x) s = exec (.syncExhaust y) s)

/-- The decoder and the encoder are inverse to each other: every operation with every value of its fields, canonical or
not, and every 12-bit word (30_encoding.md R54). That the ignored bits of `imm8` are kept in the operation, so that a word
that is not canonical is given back too, is the model's choice, log 13. -/
def Obligations.DecodeAndEncodeAreInverse : Prop :=
  (∀ i : Instr, decodeCmd (encode i) = i ∧ decode (encode i).toNat = .ok i) ∧
  (∀ w : CmdWord, encode (decodeCmd w) = w)

/-- Two words that agree in the selector and in the bits their operation uses do the same in every state: the other bits
of `imm8` are ignored (30_encoding.md R54, 92_eei_decisions.md D24). -/
def Obligations.UnusedWordBitsAreIgnored : Prop :=
  ∀ (w v : CmdWord) (s : State),
    opOf w = opOf v →
    (opOf w = 0x2 ∨ opOf w = 0xC → immOf w = immOf v) →
    (opOf w = 0xA ∨ opOf w = 0xB → flagOf w = flagOf v) →
      exec (decodeCmd w) s = exec (decodeCmd v) s

/-- Immediate assembly and the reserved selectors (30_encoding.md R58): no state change, no result, error 15. That such a
word ends in a next state, as any error does, and not in a stop of the machine, is the model's reading, log 1. -/
def Obligations.ReservedSelectorsReportReservedOp : Prop :=
  (∀ x : BitVec 8, decodeCmd (0x2#4 ++ x) = .crcUpdate x ∧ decodeCmd (0xC#4 ++ x) = .syncFeed x ∧
    decodeCmd (0xA#4 ++ x) = .frameSer (x.getLsbD 0) (x.extractLsb' 1 7) ∧
    decodeCmd (0xB#4 ++ x) = .frameDes (x.getLsbD 0) (x.extractLsb' 1 7) ∧
    decodeCmd (0x0#4 ++ x) = .reserved0 x ∧ decodeCmd (0xE#4 ++ x) = .reservedE x ∧
    decodeCmd (0xF#4 ++ x) = .reservedF x) ∧
  (∀ (x : BitVec 8) (s : State),
    exec (.reserved0 x) s = .next { s with out := { Outputs.quiet with err := .reservedOp } } ∧
    exec (.reservedE x) s = .next { s with out := { Outputs.quiet with err := .reservedOp } } ∧
    exec (.reservedF x) s = .next { s with out := { Outputs.quiet with err := .reservedOp } }) ∧
  errCode .reservedOp = 15

/-- The numbers of the error kinds, the events and the synchronizer's states (30_encoding.md R55, R56, R57). -/
def Obligations.PortCodes : Prop :=
  (errCode .noError = 0 ∧ errCode .truncatedHeader = 1 ∧ errCode .tooShort = 2 ∧ errCode .syncMismatch = 3 ∧
    errCode .invalidLength = 4 ∧ errCode .crcMismatch = 5 ∧ errCode .missingField = 6 ∧
    errCode .invalidPacketType = 7 ∧ errCode .badHexValue = 8 ∧ errCode .payloadTooLarge = 9 ∧
    errCode .reservedOp = 15) ∧
  (eventCode .noEvent = 0 ∧ eventCode .syncMismatch = 1 ∧ (∀ f, eventCode (.frameValid f) = 2) ∧
    (∀ f, eventCode (.frameCrcError f) = 3) ∧ eventCode .invalidLength = 4) ∧
  (stCode .idle = 0 ∧ stCode .sync = 1 ∧ stCode .primaryHeader = 2 ∧ stCode .secondaryHeader = 3 ∧
    stCode .data = 4 ∧ stCode .valid = 5 ∧ stCode .crcError = 6)

/-! ### The CRC-32 generator -/

/-- CRC.INIT (40_crc32.md R67): the accumulator is loaded, nothing else changes, CRC.FINAL then gives 0. -/
def Obligations.CrcInitLoadsAllOnes : Prop :=
  (∀ x : BitVec 8, decodeCmd (0x1#4 ++ x) = .crcInit x) ∧ encode (.crcInit 0) = 0x100 ∧
  ∀ (x y : BitVec 8) (s : State),
    exec (.crcInit x) s = .next { s with crcAcc := 0xFFFFFFFF, out := Outputs.quiet } ∧
    exec (.crcFinal y) { s with crcAcc := 0xFFFFFFFF, out := Outputs.quiet } =
      .next { s with crcAcc := 0xFFFFFFFF, out := { Outputs.quiet with crcOut := some 0 } }

/-- CRC.UPDATE (40_crc32.md R68): one byte step of the accumulator, nothing else changes. -/
def Obligations.CrcUpdateStepsTheAccumulator : Prop :=
  (∀ b : Byte, decodeCmd (0x2#4 ++ b) = .crcUpdate b) ∧
  (∀ (b : Byte) (s : State),
    exec (.crcUpdate b) s = .next { s with crcAcc := crcStep s.crcAcc b, out := Outputs.quiet }) ∧
  crcStep 0xFFFFFFFF 0x00 = 0x2DFD1072 ∧ crcStep 0xFFFFFFFF 0x61 = 0x174841BC

/-- CRC.FINAL (40_crc32.md R69): the complement of the accumulator, which is left unchanged, so that the stream goes on
after it and a later CRC.FINAL gives the CRC of the longer sequence. -/
def Obligations.CrcFinalReadsTheComplement : Prop :=
  (∀ x : BitVec 8, decodeCmd (0x3#4 ++ x) = .crcFinal x) ∧ encode (.crcFinal 0) = 0x300 ∧
  (∀ (x : BitVec 8) (s : State),
    exec (.crcFinal x) s =
      .next { s with out := { Outputs.quiet with crcOut := some (s.crcAcc ^^^ 0xFFFFFFFF) } }) ∧
  (∀ (x y : BitVec 8) (b : Byte) (P : List Byte) (s : State), s.crcAcc = crcFold 0xFFFFFFFF P →
    ∃ t u v, exec (.crcFinal x) s = .next t ∧ t.out.crcOut = some (crc32 P) ∧
      exec (.crcUpdate b) t = .next u ∧ exec (.crcFinal y) u = .next v ∧
      v.out.crcOut = some (crc32 (P ++ [b]))) ∧
  (0x174841BC#32 ^^^ 0xFFFFFFFF#32 = 0xE8B7BE43#32 ∧ crc32 [0x61] = 0xE8B7BE43)

/-- CRC.COMPUTE (40_crc32.md R70): the CRC of the whole operand, no register read or written. -/
def Obligations.CrcComputeTouchesNoRegister : Prop :=
  (∀ x : BitVec 8, decodeCmd (0x4#4 ++ x) = .crcCompute x) ∧ encode (.crcCompute 0) = 0x400 ∧
  (∀ (x : BitVec 8) (s : State),
    exec (.crcCompute x) s =
      .next { s with out := { Outputs.quiet with crcOut := some (crc32 s.inp.crcBuf) } }) ∧
  crc32 [] = 0 ∧ crc32 [0x00] = 0xD202EF8D ∧
  crc32 [0x31, 0x32, 0x33, 0x34, 0x35, 0x36, 0x37, 0x38, 0x39] = 0xCBF43926 ∧
  (∃ A B : List Byte, A.Perm B ∧ crc32 A ≠ crc32 B)

/-- The byte step, its fold, and the table-driven form (40_crc32.md R66). -/
def Obligations.CrcStepIsBitSerialAndTableDriven : Prop :=
  (∀ (acc : BitVec 32) (b : Byte),
    crcStep acc b =
      (fun a : BitVec 32 => if a.getLsbD 0 then (a >>> 1) ^^^ 0xEDB88320#32 else a >>> 1)^[8]
        (acc ^^^ b.setWidth 32)) ∧
  (∀ B : List Byte, crc32 B = crcFold 0xFFFFFFFF B ^^^ 0xFFFFFFFF) ∧
  (∀ acc : BitVec 32, crcFold acc [] = acc) ∧
  (∀ (acc : BitVec 32) (b : Byte) (B : List Byte), crcFold acc (b :: B) = crcFold (crcStep acc b) B) ∧
  (∀ (acc : BitVec 32) (b : Byte),
    crcStep acc b =
      (acc >>> 8) ^^^ crcStep (((acc ^^^ b.setWidth 32).extractLsb' 0 8).setWidth 32) 0) ∧
  crcStep 0 0 = 0 ∧ crcStep 1 0 = 0x77073096 ∧ crcStep 2 0 = 0xEE0E612C ∧ crcStep 128 0 = 0xEDB88320 ∧
  crcStep 255 0 = 0x2D02EF8D

/-- `crc32` is the CRC-32 of the parameters of 40_crc32.md R65: in normal form the polynomial is 0x04C11DB7, the register
starts all-ones, input bytes and output are reflected, the final exclusive-or is all-ones; with the check value. -/
def Obligations.CrcIsTheStandardCrc : Prop :=
  (∀ B : List Byte, crc32 B = normalCrc32 B) ∧ crcPolyReflected = (0x04C11DB7#32).reverse ∧
  crc32 [0x31, 0x32, 0x33, 0x34, 0x35, 0x36, 0x37, 0x38, 0x39] = 0xCBF43926 ∧
  crc32 [0x2F, 0xFF, 0xC0, 0x64, 0x00, 0x14, 0x00, 0x00, 0x00, 0x01, 0x81, 0xCD, 0x01, 0x05, 0x12, 0x34,
    0x48, 0x65, 0x6C, 0x6C, 0x6F, 0x21] = 0xB535F593

/-- Streaming equivalence (40_crc32.md R71): CRC.STREAM gives `crc32` as CRC.COMPUTE does; and after any run of the
caller's requests the accumulator is the fold of the bytes given since the last CRC.INIT or RESET. -/
def Obligations.CrcStreamEqualsCompute : Prop :=
  (∀ (B : List Byte) (x : BitVec 8) (s : State),
    ∃ t u, execAll (pseudoCrcStream B) s = .next t ∧ t.out.crcOut = some (crc32 B) ∧
      exec (.crcCompute x) { s with inp := { s.inp with crcBuf := B } } = .next u ∧
      u.out.crcOut = some (crc32 B)) ∧
  (∀ (s t : State) (P : List Byte), s.crcAcc = crcFold 0xFFFFFFFF P →
    Host.Core.run Sys2Proof.core s.program.length s = .next t →
      t.crcAcc = crcFold 0xFFFFFFFF (streamBytes P s.program))

/-! ### The header packer and unpacker, the sequence counter -/

/-- HDR.PACK (41_header.md R75 with the bit table of 30_encoding.md R48): byte `i` of the result is byte `i` of the header
as one 128-bit number; nothing is written. -/
def Obligations.HdrPackFollowsTheBitTable : Prop :=
  (∀ x : BitVec 8, decodeCmd (0x5#4 ++ x) = .hdrPack x) ∧ encode (.hdrPack 0) = 0x500 ∧
  ∀ (x : BitVec 8) (s : State),
    exec (.hdrPack x) s = .next { s with out := { Outputs.quiet with
      hdrBytes := some ((List.range 16).map (headerValueByte (headerValue s.inp.hdr))) } }

/-- HDR.UNPACK (41_header.md R76 with 30_encoding.md R48): below 16 bytes `TruncatedHeader` with the length and nothing
else; otherwise the header whose 128-bit number has the first 16 bytes, whatever follows them. -/
def Obligations.HdrUnpackFollowsTheBitTable : Prop :=
  (∀ x : BitVec 8, decodeCmd (0x6#4 ++ x) = .hdrUnpack x) ∧ encode (.hdrUnpack 0) = 0x600 ∧
  (∀ (x : BitVec 8) (s : State), s.inp.hdrBytes.length < 16 →
    exec (.hdrUnpack x) s = .next { s with out := { Outputs.quiet with
      err := .truncatedHeader, errInfo := some s.inp.hdrBytes.length } }) ∧
  (∀ (x : BitVec 8) (s : State), 16 ≤ s.inp.hdrBytes.length →
    ∃ h : Header, exec (.hdrUnpack x) s = .next { s with out := { Outputs.quiet with hdr := some h } } ∧
      s.inp.hdrBytes.take 16 = (List.range 16).map (headerValueByte (headerValue h))) ∧
  errCode .truncatedHeader = 1

/-- HDR.PACK and HDR.UNPACK are mutually inverse bijections (41_header.md R77). -/
def Obligations.HdrPackAndUnpackAreInverse : Prop :=
  (∀ (x y : BitVec 8) (s : State), ∃ H t u,
    exec (.hdrPack x) s = .next t ∧ t.out.hdrBytes = some H ∧ H.length = 16 ∧
    exec (.hdrUnpack y) { s with inp := { s.inp with hdrBytes := H } } = .next u ∧
    u.out.hdr = some s.inp.hdr) ∧
  (∀ (x y : BitVec 8) (s : State), s.inp.hdrBytes.length = 16 → ∃ h t u,
    exec (.hdrUnpack y) s = .next t ∧ t.out.hdr = some h ∧
    exec (.hdrPack x) { s with inp := { s.inp with hdr := h } } = .next u ∧
    u.out.hdrBytes = some s.inp.hdrBytes)

/-- SEQ.NEXT (41_header.md R78): the stored count is returned, then incremented modulo 0x4000; `n` of them add `n`
modulo 0x4000, so the result after them is the first one plus `n`, and the results repeat with period 16384. -/
def Obligations.SeqNextReturnsThenIncrements : Prop :=
  (∀ x : BitVec 8, decodeCmd (0x7#4 ++ x) = .seqNext x) ∧ encode (.seqNext 0) = 0x700 ∧
  (∀ (x : BitVec 8) (s : State),
    exec (.seqNext x) s = .next { s with
      seqCnt := BitVec.ofNat 14 ((s.seqCnt.toNat + 1) % 0x4000)
      out := { Outputs.quiet with seqOut := some s.seqCnt } }) ∧
  (∀ (n : Nat) (s : State), ∃ (t u : State) (r : BitVec 14),
    execAll (List.replicate n (.seqNext 0)) s = .next t ∧ t.seqCnt.toNat = (s.seqCnt.toNat + n) % 0x4000 ∧
    exec (.seqNext 0) t = .next u ∧ u.out.seqOut = some r ∧ r.toNat = (s.seqCnt.toNat + n) % 0x4000)

/-- SEQ.RESET (41_header.md R79): the counter becomes `SEQ_INIT`, 0 by default; nothing else changes. -/
def Obligations.SeqResetLoadsSeqInit : Prop :=
  (∀ x : BitVec 8, decodeCmd (0x8#4 ++ x) = .seqReset x) ∧ encode (.seqReset 0) = 0x800 ∧
  (∀ (x : BitVec 8) (s : State), exec (.seqReset x) s = .next { s with seqCnt := 0, out := Outputs.quiet }) ∧
  (∀ (c : Config) (s : State), resetSeq c s = .next { s with seqCnt := c.seqInit, out := Outputs.quiet })

/-! ### The frame codec -/

/-- PKT.BUILD (42_codec.md R86), for both values of `LEN_ADJ`: `PayloadTooLarge` with the length above 65521 bytes;
otherwise every field as given, `apid` masked, `data_length` computed; no register is read or written. -/
def Obligations.PktBuildComputesDataLength : Prop :=
  (∀ x : BitVec 8, decodeCmd (0x9#4 ++ x) = .pktBuild x) ∧ encode (.pktBuild 0) = 0x900 ∧
  (∀ (x : BitVec 8) (s : State),
    exec (.pktBuild x) s = buildPacket Config.hardware s.inp.hdr.sequenceCount s) ∧
  (∀ (c : Config) (n : BitVec 14) (s : State), 65521 < s.inp.payload.length →
    buildPacket c n s = .next { s with out := { Outputs.quiet with
      err := .payloadTooLarge, errInfo := some s.inp.payload.length } }) ∧
  (∀ (c : Config) (n : BitVec 14) (s : State), s.inp.payload.length ≤ 65521 →
    ∃ h : Header, buildPacket c n s = .next { s with out := { Outputs.quiet with
        hdr := some h, payload := some s.inp.payload } } ∧
      h.version = s.inp.hdr.version ∧ h.packetType = s.inp.hdr.packetType ∧
      h.secondaryHeaderFlag = s.inp.hdr.secondaryHeaderFlag ∧
      h.apid.toNat = s.inp.apidIn.toNat % 0x800 ∧ h.sequenceFlags = s.inp.hdr.sequenceFlags ∧
      h.sequenceCount = n ∧ h.dataLength.toNat + c.lenAdj.val = 10 + s.inp.payload.length + 4 ∧
      h.timingInfo = s.inp.hdr.timingInfo ∧ h.segmentNumber = s.inp.hdr.segmentNumber ∧
      h.functionCode = s.inp.hdr.functionCode ∧ h.addressCode = s.inp.hdr.addressCode) ∧
  errCode .payloadTooLarge = 9

/-- A Packet that PKT.BUILD makes is well formed: at most 65521 payload bytes and the length invariant of 30_encoding.md
R50, for both values of `LEN_ADJ` (42_codec.md R85). -/
def Obligations.BuiltPacketsSatisfyTheLengthInvariant : Prop :=
  ∀ (c : Config) (n : BitVec 14) (s : State), s.inp.payload.length ≤ 65521 →
    ∃ (t : State) (p : Packet), buildPacket c n s = .next t ∧ t.out.hdr = some p.header ∧
      t.out.payload = some p.payload ∧ Packet.wf c p = true

/-- FRAME.SER (42_codec.md R87): the marker where it is asked for, the packed header as it stands, the payload, and the
CRC-32 of both most significant byte first; nothing is written. -/
def Obligations.FrameSerEmitsTheWireFormat : Prop :=
  (∀ x : BitVec 8, decodeCmd (0xA#4 ++ x) = .frameSer (x.getLsbD 0) (x.extractLsb' 1 7)) ∧
  ∀ (f : Bool) (x : BitVec 7) (s : State), ∃ F : List Byte,
    exec (.frameSer f x) s = .next { s with out := { Outputs.quiet with
      frame := some ((if f then [0x55, 0xAA] else []) ++ F)
      frameLen := some (20 + s.inp.payload.length + (if f then 2 else 0)) } } ∧
    F.length = 20 + s.inp.payload.length ∧
    F.take 16 = (List.range 16).map (headerValueByte (headerValue s.inp.hdr)) ∧
    (F.drop 16).take s.inp.payload.length = s.inp.payload ∧
    be32 F (16 + s.inp.payload.length) = crc32 (F.take (16 + s.inp.payload.length))

/-- A frame tells its own length: of a well-formed Packet's frame, bytes 4 and 5 give `frame_len`, and the payload is the
bytes 16 to `frame_len - 5` (30_encoding.md R61, R50). -/
def Obligations.FrameDeclaresItsLength : Prop :=
  ∀ (c : Config) (p : Packet), Packet.wf c p = true →
    (frameOf p).length = 6 + (be16 (frameOf p) 4).toNat + c.lenAdj.val ∧
    ((frameOf p).drop 16).take ((frameOf p).length - 20) = p.payload

/-- FRAME.DES (42_codec.md R88), for every configuration: the three errors in the order of the steps, each with its exact
condition, and otherwise the Packet with `crc_valid`, `crc_rx`, `crc_calc`; no register is read or written. -/
def Obligations.FrameDesFollowsItsFiveSteps : Prop :=
  (∀ x : BitVec 8, decodeCmd (0xB#4 ++ x) = .frameDes (x.getLsbD 0) (x.extractLsb' 1 7)) ∧
  (∀ (f : Bool) (x : BitVec 7) (s : State),
    exec (.frameDes f x) s = deserialize Config.hardware f s.inp.frame s) ∧
  (errCode .syncMismatch = 3 ∧ errCode .tooShort = 2 ∧ errCode .invalidLength = 4) ∧
  ∀ (c : Config) (f : Bool) (B R : List Byte) (d : Nat) (s : State),
    R = (if f then B.drop 2 else B) → d = (be16 R 4).toNat →
    deserialize c f B s =
      if f = true ∧ ¬ (B[0]? = some 0x55 ∧ B[1]? = some 0xAA) then
        .next { s with out := { Outputs.quiet with err := .syncMismatch } }
      else if R.length < 20 then
        .next { s with out := { Outputs.quiet with err := .tooShort, errInfo := some R.length } }
      else if d + c.lenAdj.val < 14 ∨ R.length < d + 6 + c.lenAdj.val ∨
          (d + 6 + c.lenAdj.val < R.length ∧ c.surplusPolicy = .invalidLength) then
        .next { s with out := { Outputs.quiet with err := .invalidLength } }
      else
        .next { s with out := { Outputs.quiet with
          hdr := some (unpackHeader (R.take 16))
          payload := some ((R.drop 16).take (d + c.lenAdj.val - 14))
          crcValid := some (decide (crc32 (R.take (d + 2 + c.lenAdj.val)) = be32 R (d + 2 + c.lenAdj.val)))
          crcRx := some (be32 R (d + 2 + c.lenAdj.val))
          crcCalc := some (crc32 (R.take (d + 2 + c.lenAdj.val))) } }

/-- FRAME.DES on this hardware completes on a buffer of the declared length (42_codec.md R88): the marker where it is
expected, `data_length` at least 13, and exactly `data_length + 7` bytes after the marker. -/
def Obligations.FrameDesCompletesOnExactLength : Prop :=
  ∀ (f : Bool) (x : BitVec 7) (s : State) (R : List Byte),
    s.inp.frame = (if f then [0x55, 0xAA] else []) ++ R →
    13 ≤ (be16 R 4).toNat → R.length = (be16 R 4).toNat + 7 →
      exec (.frameDes f x) s = .next { s with out := { Outputs.quiet with
        hdr := some (unpackHeader R)
        payload := some ((R.drop 16).take (R.length - 20))
        crcValid := some (decide (crc32 (R.take (R.length - 4)) = be32 R (R.length - 4)))
        crcRx := some (be32 R (R.length - 4))
        crcCalc := some (crc32 (R.take (R.length - 4))) } }

/-- Round trip (42_codec.md section 3, item (a)): a Packet built by PKT.BUILD, serialized and deserialized with the same
option, comes back with `crc_valid = 1`. -/
def Obligations.BuildSerializeDeserializeRoundTrip : Prop :=
  ∀ (f : Bool) (x : BitVec 8) (y z : BitVec 7) (s : State), s.inp.payload.length ≤ 65521 →
    ∃ (h : Header) (F : List Byte) (crc : BitVec 32) (t u v : State),
      exec (.pktBuild x) s = .next t ∧ t.out.hdr = some h ∧ t.out.payload = some s.inp.payload ∧
      exec (.frameSer f y) { t with inp := { t.inp with hdr := h } } = .next u ∧ u.out.frame = some F ∧
      exec (.frameDes f z) { u with inp := { u.inp with frame := F } } = .next v ∧
      v.out = { Outputs.quiet with
        hdr := some h, payload := some s.inp.payload, crcValid := some true, crcRx := some crc,
        crcCalc := some crc }

/-- Round trip for every configuration and every Packet that satisfies the length invariant, however it was put together
(42_codec.md section 3, item (a)); and only for such: if the result is the Packet itself, its length invariant holds. -/
def Obligations.RoundTripExactlyForTheLengthInvariant : Prop :=
  ∀ (c : Config) (p : Packet) (f : Bool) (s : State),
    p.payload.length ≤ 65521 →
    (Packet.wf c p = true ↔
      deserialize c f (serialize p f) s = .next { s with out := { Outputs.quiet with
        hdr := some p.header, payload := some p.payload, crcValid := some true,
        crcRx := some (crc32 (packHeader p.header ++ p.payload)),
        crcCalc := some (crc32 (packHeader p.header ++ p.payload)) } })

/-- A frame serialized without the marker and deserialized with it expected fails `SyncMismatch`, unless its header happens
to start `55 AA` (42_codec.md section 3, item (b)). -/
def Obligations.MissingMarkerIsSyncMismatch : Prop :=
  ∀ (p : Packet) (x : BitVec 7) (s : State),
    ¬ (headerWord0 p.header = 0x55AA) →
      exec (.frameDes true x) { s with inp := { s.inp with frame := serialize p false } } =
        .next { s with
          inp := { s.inp with frame := serialize p false }
          out := { Outputs.quiet with err := .syncMismatch } }

/-- CRC sensitivity (42_codec.md section 3, item (c)): with one bit flipped, a serialized frame gives `SyncMismatch` for a
marker bit, `InvalidLength` for a `data_length` bit, and `crc_valid = 0` for every other bit. -/
def Obligations.SingleBitFlipIsNeverValid : Prop :=
  ∀ (p : Packet) (f : Bool) (x : BitVec 7) (k j m : Nat) (s : State),
    Packet.wf Config.hardware p = true → m = (if f then 2 else 0) →
    k < (serialize p f).length → j < 8 →
    ∃ t, exec (.frameDes f x) { s with inp := { s.inp with frame := flipBit (serialize p f) k j } } = .next t ∧
      (if k < m then t.out.err = .syncMismatch
       else if k = m + 4 ∨ k = m + 5 then t.out.err = .invalidLength
       else t.out.err = .noError ∧ t.out.crcValid = some false)

/-- PKT.NEW (42_codec.md R90): a refused construction leaves the counter; otherwise the Packet carries the stored count
and the counter advances modulo 0x4000. -/
def Obligations.PktNewUsesTheCounter : Prop :=
  (∀ s : State, 65521 < s.inp.payload.length →
    pseudoPktNew s = .next { s with out := { Outputs.quiet with
      err := .payloadTooLarge, errInfo := some s.inp.payload.length } }) ∧
  (∀ s : State, s.inp.payload.length ≤ 65521 →
    ∃ (h : Header) (t : State), execSeqNext s = .next t ∧ t.out.seqOut = some h.sequenceCount ∧
      t.seqCnt.toNat = (s.seqCnt.toNat + 1) % 0x4000 ∧ h.sequenceCount = s.seqCnt ∧
      buildPacket Config.hardware h.sequenceCount t = pseudoPktNew s ∧
      pseudoPktNew s = .next { s with
        seqCnt := t.seqCnt
        out := { Outputs.quiet with hdr := some h, payload := some s.inp.payload } })

/-! ### The frame synchronizer -/

/-- SYNC.FEED in IDLE (43_synchronizer.md R96): the byte opens the search window. -/
def Obligations.SyncFeedInIdleOpensTheWindow : Prop :=
  ∀ (b : Byte) (s : State), s.st = .idle →
    exec (.syncFeed b) s = .next { s with
      fbuf := [], win := some b, dlen := 0, st := .sync, out := { Outputs.quiet with ev := some .noEvent } }

/-- SYNC.FEED in SYNC (43_synchronizer.md R97): on `55 AA` the marker is consumed and not stored; otherwise the older byte
is discarded and the newer one kept. -/
def Obligations.SyncFeedInSyncSlidesTheWindow : Prop :=
  ∀ (b w : Byte) (s : State), s.st = .sync → s.win = some w →
    exec (.syncFeed b) s =
      if w = 0x55 ∧ b = 0xAA then
        .next { s with
          win := none, fbuf := [], st := .primaryHeader, out := { Outputs.quiet with ev := some .noEvent } }
      else .next { s with win := some b, out := { Outputs.quiet with ev := some .syncMismatch } }

/-- SYNC.FEED in PRIMARY_HEADER (43_synchronizer.md R98, R109): the byte is appended; at the sixth, `data_length` is taken,
or the attempt is abandoned where it is below 13. -/
def Obligations.SyncFeedInPrimaryHeader : Prop :=
  ∀ (b : Byte) (m : List Byte) (s : State), s.st = .primaryHeader → s.fbuf.length ≤ 5 → m = s.fbuf ++ [b] →
    exec (.syncFeed b) s =
      if m.length = 6 then
        if (be16 m 4).toNat < 13 then
          .next { s with
            fbuf := [], win := none, dlen := 0, st := .idle
            out := { Outputs.quiet with ev := some .invalidLength } }
        else
          .next { s with
            fbuf := m, dlen := be16 m 4, st := .secondaryHeader
            out := { Outputs.quiet with ev := some .noEvent } }
      else .next { s with fbuf := m, out := { Outputs.quiet with ev := some .noEvent } }

/-- SYNC.FEED in SECONDARY_HEADER (43_synchronizer.md R99): ten more bytes are appended without interpretation; the frame
has at least 20 bytes, so it is never complete here. -/
def Obligations.SyncFeedInSecondaryHeader : Prop :=
  (∀ (c : Config) (d : BitVec 16), c.minDlen ≤ d.toNat → 20 ≤ frameLenOf c d) ∧
  ∀ (b : Byte) (s : State), s.st = .secondaryHeader → s.fbuf.length ≤ 15 →
    exec (.syncFeed b) s = .next { s with
      fbuf := s.fbuf ++ [b]
      st := if s.fbuf.length + 1 = 16 then .data else .secondaryHeader
      out := { Outputs.quiet with ev := some .noEvent } }

/-- SYNC.FEED in DATA (43_synchronizer.md R100, R101): the byte is appended; when the buffer holds `data_length + 7` bytes
the CRC decides between the two events, the frame is handed over and the machine is in IDLE with everything cleared. -/
def Obligations.SyncFeedInData : Prop :=
  ∀ (b : Byte) (m : List Byte) (s : State), s.st = .data → s.fbuf.length < s.dlen.toNat + 7 →
    m = s.fbuf ++ [b] →
    exec (.syncFeed b) s =
      if m.length = s.dlen.toNat + 7 then
        .next { s with
          fbuf := [], win := none, dlen := 0, st := .idle
          out := { Outputs.quiet with ev := some (
            if crc32 (m.take (m.length - 4)) = be32 m (m.length - 4) then
              .frameValid ⟨m, BitVec.ofNat 17 m.length, be32 m (m.length - 4), crc32 (m.take (m.length - 4))⟩
            else
              .frameCrcError ⟨m, BitVec.ofNat 17 m.length, be32 m (m.length - 4),
                crc32 (m.take (m.length - 4))⟩) } }
      else .next { s with fbuf := m, out := { Outputs.quiet with ev := some .noEvent } }

/-- SYNC.FEED is total over the states of the table of R24, for every configuration (43_synchronizer.md R102): it completes
with exactly one event and no error, touches only the four synchronizer registers, and ends in the table again. -/
def Obligations.SyncFeedIsTotalOnRestingStates : Prop :=
  ∀ (c : Config) (b : Byte) (s : State), Resting c s = true →
    ∃ (t : State) (e : Event), feed c b s = .next t ∧ Resting c t = true ∧
      t.out = { Outputs.quiet with ev := some e } ∧
      t.crcAcc = s.crcAcc ∧ t.seqCnt = s.seqCnt ∧ SameCaller s t

/-- SYNC.EXHAUST (43_synchronizer.md R103): the synchronizer is cleared at once, in any state, and nothing is reported. -/
def Obligations.SyncExhaustClearsTheSynchronizer : Prop :=
  (∀ x : BitVec 8, decodeCmd (0xD#4 ++ x) = .syncExhaust x) ∧ encode (.syncExhaust 0) = 0xD00 ∧
  ∀ (x : BitVec 8) (s : State),
    exec (.syncExhaust x) s = .next { s with
      fbuf := [], win := none, dlen := 0, st := .idle, out := { Outputs.quiet with ev := some .noEvent } }

/-- SYNC.FEEDN (43_synchronizer.md R104): the feeds in order with their events in order, one for each byte; a chunk's end
is no exhaustion, so two chunks are as one; the empty chunk does nothing. -/
def Obligations.FeedingChunksIsFeedingBytes : Prop :=
  (∀ s : State, pseudoSyncFeedN [] s = .next (s, [])) ∧
  (∀ (b : Byte) (B : List Byte) (s t u : State) (e : Event) (es : List Event),
    exec (.syncFeed b) s = .next t → t.out.ev = some e → pseudoSyncFeedN B t = .next (u, es) →
      pseudoSyncFeedN (b :: B) s = .next (u, e :: es)) ∧
  (∀ (A B : List Byte) (s t u : State) (es fs : List Event),
    pseudoSyncFeedN A s = .next (t, es) → pseudoSyncFeedN B t = .next (u, fs) →
      pseudoSyncFeedN (A ++ B) s = .next (u, es ++ fs)) ∧
  (∀ (B : List Byte) (s : State), Resting Config.hardware s = true →
    ∃ (t : State) (es : List Event), pseudoSyncFeedN B s = .next (t, es) ∧ es.length = B.length ∧
      Resting Config.hardware t = true)

/-- Resynchronisation (43_synchronizer.md R105): two garbage bytes and a marked frame of any well-formed Packet give exactly
one FRAME_VALID equal to the frame; and from IDLE or SYNC the machine enters PRIMARY_HEADER exactly at the first `55 AA` of
the window's byte and the bytes fed. -/
def Obligations.ResyncFindsTheEmbeddedFrame : Prop :=
  (∀ (c : Config) (p : Packet) (s : State), Packet.wf c p = true → s.st = .idle →
    ∃ (t : State) (f : HandedFrame),
      feedAll c ([0x00, 0x11] ++ serialize p true) s =
        .next (t, [.noEvent, .syncMismatch, .syncMismatch, .noEvent] ++
          List.replicate ((frameOf p).length - 1) .noEvent ++ [.frameValid f]) ∧
      f.frm = frameOf p ∧ f.frmLen.toNat = (frameOf p).length ∧ f.crcRx = f.crcCalc ∧ t.st = .idle) ∧
  (∀ (c : Config) (X S : List Byte) (s : State), Resting c s = true → s.st = .idle ∨ s.st = .sync →
    S = s.win.toList ++ X →
    (NoMarker S →
      ∃ (t : State) (es : List Event), feedAll c X s = .next (t, es) ∧ (t.st = .idle ∨ t.st = .sync) ∧
        t.win = S.getLast?) ∧
    (∀ A : List Byte, S = A ++ [0x55, 0xAA] →
      NoMarker (A ++ [0x55]) →
      ∃ (t : State) (es : List Event), feedAll c X s = .next (t, es) ∧ t.st = .primaryHeader ∧
        t.win = none ∧ t.fbuf = [] ∧ t.dlen = 0))

/-- Progress and bounds (43_synchronizer.md R106): a feed never waits; after the marker an attempt consumes exactly
`frame_len` bytes, or 6 where it is abandoned, reports once, at its last byte, and leaves the machine in IDLE; nothing but
`data_length` decides how many; `frame_len` is at most `FBUF_CAP`, and `FBUF` holds less than that between operations. -/
def Obligations.AttemptConsumesTheDeclaredLength : Prop :=
  (∀ (c : Config) (s : State), Resting c s = true → s.fbuf.length ≤ c.fbufCap - 1) ∧
  (∀ (c : Config) (d : BitVec 16), frameLenOf c d ≤ c.fbufCap) ∧
  (∀ (c : Config) (b : Byte) (s : State), Resting c s = true → ∃ t, feed c b s = .next t) ∧
  (∀ (c : Config) (B : List Byte) (s : State), Resting c s = true → s.st = .primaryHeader → s.fbuf = [] →
    (B.length = 6 → (be16 B 4).toNat < c.minDlen →
      ∃ t, feedAll c B s = .next (t, List.replicate 5 .noEvent ++ [.invalidLength]) ∧ t.st = .idle) ∧
    (c.minDlen ≤ (be16 B 4).toNat → B.length = frameLenOf c (be16 B 4) →
      ∃ (t : State) (e : Event) (f : HandedFrame),
        feedAll c B s = .next (t, List.replicate (B.length - 1) .noEvent ++ [e]) ∧ t.st = .idle ∧
        f.frm = B ∧ f.frmLen.toNat = B.length ∧ f.crcRx = be32 B (B.length - 4) ∧
        f.crcCalc = crc32 (B.take (B.length - 4)) ∧
        e = if f.crcCalc = f.crcRx then .frameValid f else .frameCrcError f) ∧
    (6 ≤ B.length → c.minDlen ≤ (be16 B 4).toNat → B.length < frameLenOf c (be16 B 4) →
      ∃ t, feedAll c B s = .next (t, List.replicate B.length .noEvent) ∧ t.fbuf = B ∧ t.dlen = be16 B 4 ∧
        (t.st = .secondaryHeader ∨ t.st = .data)))

/-- Agreement with the codec (43_synchronizer.md R107): FRAME.DES of a handed-over frame without the marker raises no
error, and its verdict and CRC values are the event's. -/
def Obligations.HandedFramesDeserialize : Prop :=
  ∀ (c : Config) (b : Byte) (s t : State) (f : HandedFrame), Resting c s = true → feed c b s = .next t →
    (t.out.ev = some (.frameValid f) ∨ t.out.ev = some (.frameCrcError f)) →
    ∃ u, deserialize c false f.frm t = .next u ∧ u.out.err = .noError ∧
      (u.out.crcValid = some true ↔ t.out.ev = some (.frameValid f)) ∧
      (u.out.crcValid = some false ↔ t.out.ev = some (.frameCrcError f)) ∧
      u.out.crcRx = some f.crcRx ∧ u.out.crcCalc = some f.crcCalc

/-- The edges of `ST` (44_arithmetic_control_access.md R111): a feed takes one of the listed edges, an exhaustion goes to
IDLE, every other operation leaves `ST`; this holds in every state. -/
def Obligations.StTakesOnlyTheListedEdges : Prop :=
  ∀ (i : Instr) (s t : State), exec i s = .next t →
    ((∃ b, i = .syncFeed b) → StEdge s.st t.st = true) ∧
    ((∃ x, i = .syncExhaust x) → t.st = .idle) ∧
    ((∀ b, i ≠ .syncFeed b) → (∀ x, i ≠ .syncExhaust x) → t.st = s.st)

/-! ### Errors -/

/-- Each error kind is raised exactly when its row of 60_exceptions.md R115 says, with that row's datum; the other kinds
never. -/
def Obligations.ErrorsAreRaisedExactlyWhenStated : Prop :=
  (∀ (i : Instr) (s t : State), exec i s = .next t →
    (t.out.err = .truncatedHeader ↔ (∃ x, i = .hdrUnpack x) ∧ s.inp.hdrBytes.length < 16) ∧
    (t.out.err = .syncMismatch ↔
      (∃ x, i = .frameDes true x) ∧ ¬ (s.inp.frame[0]? = some 0x55 ∧ s.inp.frame[1]? = some 0xAA)) ∧
    (t.out.err = .tooShort ↔ ∃ f x, i = .frameDes f x ∧
      (f = true → s.inp.frame[0]? = some 0x55 ∧ s.inp.frame[1]? = some 0xAA) ∧
      (s.inp.frame.drop (if f then 2 else 0)).length < 20) ∧
    (t.out.err = .invalidLength ↔ ∃ f x R, i = .frameDes f x ∧
      (f = true → s.inp.frame[0]? = some 0x55 ∧ s.inp.frame[1]? = some 0xAA) ∧
      R = s.inp.frame.drop (if f then 2 else 0) ∧ 20 ≤ R.length ∧
      ((be16 R 4).toNat < 13 ∨ (be16 R 4).toNat + 7 ≠ R.length)) ∧
    (t.out.err = .payloadTooLarge ↔ (∃ x, i = .pktBuild x) ∧ 65521 < s.inp.payload.length) ∧
    (t.out.err = .reservedOp ↔ i.isOperation = false) ∧
    (t.out.err ≠ .crcMismatch ∧ t.out.err ≠ .missingField ∧ t.out.err ≠ .invalidPacketType ∧
      t.out.err ≠ .badHexValue) ∧
    (t.out.err = .truncatedHeader → t.out.errInfo = some s.inp.hdrBytes.length) ∧
    (t.out.err = .tooShort → ∀ f x, i = .frameDes f x →
      t.out.errInfo = some (s.inp.frame.drop (if f then 2 else 0)).length) ∧
    (t.out.err = .syncMismatch → t.out.errInfo = none) ∧
    (t.out.err = .invalidLength → t.out.errInfo = none) ∧
    (t.out.err = .payloadTooLarge → t.out.errInfo = some s.inp.payload.length)) ∧
  (∀ s t : State, pseudoPktNew s = .next t →
    (t.out.err = .payloadTooLarge ↔ 65521 < s.inp.payload.length) ∧
    (t.out.err = .payloadTooLarge → t.out.errInfo = some s.inp.payload.length)) ∧
  (errCode .truncatedHeader = 1 ∧ errCode .tooShort = 2 ∧ errCode .syncMismatch = 3 ∧ errCode .invalidLength = 4 ∧
    errCode .payloadTooLarge = 9)

/-- An operation that ends in an error leaves every register as it was and produces nothing but the kind and its datum
(60_exceptions.md R120), PKT.NEW among them, its code is not 0, and the next operation executes as it would have without it
(R121). -/
def Obligations.ErrorsWriteNoRegister : Prop :=
  (∀ (i : Instr) (s t : State), exec i s = .next t → t.out.err ≠ .noError →
    SameRegisters s t ∧ SameCaller s t ∧
    t.out = { Outputs.quiet with err := t.out.err, errInfo := t.out.errInfo } ∧
    ∀ j : Instr, exec j t = exec j s) ∧
  (∀ s t : State, pseudoPktNew s = .next t → t.out.err ≠ .noError →
    t = { s with out := { Outputs.quiet with err := t.out.err, errInfo := t.out.errInfo } }) ∧
  (∀ e : Err, e ≠ .noError → errCode e ≠ 0)

/-- The ten operations that can never end in an error complete, SYNC.FEED from every state of the table of R24, and with
error code 0 (60_exceptions.md R119). -/
def Obligations.TenOperationsNeverEndInAnError : Prop :=
  ∀ (i : Instr) (s : State), i.isOperation = true →
    (∀ x, i ≠ .hdrUnpack x) → (∀ x, i ≠ .pktBuild x) → (∀ f x, i ≠ .frameDes f x) →
    ((∃ b, i = .syncFeed b) → Resting Config.hardware s = true) →
      ∃ t, exec i s = .next t ∧ t.out.err = .noError ∧ t.out.errInfo = none

/-! ### Whole-machine rules and invariants -/

/-- Each register is written only by the operations that 10_state.md R10 lists for it, and no operation changes what
belongs to the caller. -/
def Obligations.RegistersAreWrittenOnlyByTheirOperations : Prop :=
  ∀ (i : Instr) (s t : State), exec i s = .next t →
    (t.crcAcc ≠ s.crcAcc → (∃ x, i = .crcInit x) ∨ (∃ b, i = .crcUpdate b)) ∧
    (t.seqCnt ≠ s.seqCnt → (∃ x, i = .seqNext x) ∨ (∃ x, i = .seqReset x)) ∧
    (t.st ≠ s.st ∨ t.win ≠ s.win ∨ t.fbuf ≠ s.fbuf ∨ t.dlen ≠ s.dlen →
      (∃ b, i = .syncFeed b) ∨ (∃ x, i = .syncExhaust x)) ∧
    SameCaller s t

/-- What each operation does to the bytes of `FBUF` (10_state.md R14, 44_arithmetic_control_access.md R112): operations
outside the synchronizer leave every byte; a feed in PRIMARY_HEADER, SECONDARY_HEADER or DATA that does not end the attempt
stores its byte at offset `len(FBUF)` and leaves every other byte; a feed that leaves IDLE, finds the marker or ends the
attempt, and an exhaustion, clear the buffer; a window mismatch leaves it. -/
def Obligations.FrameBufferIsAppendedOrCleared : Prop :=
  ∀ (i : Instr) (s t : State), exec i s = .next t →
    ((∀ b, i ≠ .syncFeed b) → (∀ x, i ≠ .syncExhaust x) → ∀ a, fbufByte t a = fbufByte s a) ∧
    ((∃ x, i = .syncExhaust x) → ∀ a, fbufByte t a = none) ∧
    (∀ b, i = .syncFeed b →
      (s.st = .sync → t.st = .sync → ∀ a, fbufByte t a = fbufByte s a) ∧
      (s.st = .idle ∨ t.st = .primaryHeader ∧ s.st = .sync ∨ t.st = .idle → ∀ a, fbufByte t a = none) ∧
      (s.st = .primaryHeader ∨ s.st = .secondaryHeader ∨ s.st = .data → t.st ≠ .idle →
        fbufByte t s.fbuf.length = some b ∧ ∀ a, a ≠ s.fbuf.length → fbufByte t a = fbufByte s a))

/-- Reset establishes the first row of the table of resting states, every step keeps the table, and in no state of it does
`ST` rest in VALID or CRC_ERROR (10_state.md R24; `SEQ_CNT` < 0x4000 is its width). -/
def Obligations.EveryStepKeepsTheRestingTable : Prop :=
  (State.reset.st = .idle ∧ Resting Config.hardware State.reset = true) ∧
  (∀ s : State, Resting Config.hardware s = true →
    s.st ≠ .valid ∧ s.st ≠ .crcError ∧ s.seqCnt.toNat < 0x4000) ∧
  ∀ s t : State, Resting Config.hardware s = true → step s = .next t → Resting Config.hardware t = true

/-- Every step keeps the frame buffer within its capacity, in every state (10_state.md R14). -/
def Obligations.EveryStepKeepsTheBufferWithinCapacity : Prop :=
  ∀ s t : State, Memory.wf Config.hardware s.fbuf = true → step s = .next t →
    Memory.wf Config.hardware t.fbuf = true

/-- No run from a state of the table of R24, the reset state among them, ever stops, whatever the caller issues and for any
number of steps: an error does not disable the block (60_exceptions.md R121, 43_synchronizer.md R106 (a)). That a reserved
word ends in a next state with an error, and not in a refusal, is the model's reading, log 1; the caller's list is its
choice, log 4. -/
def Obligations.RunsFromRestingStatesNeverStop : Prop :=
  ∀ (k : Nat) (s : State), Resting Config.hardware s = true → RunsSafely k s

/-- An operation is never refused, and stops only in states outside the table of R24: a feed while `ST` rests in VALID or
CRC_ERROR, or an append to a full buffer (the model's choices, logs 8 and 9; 10_state.md R14, R15). That a reserved word
completes, with an error, and is not refused, is the model's reading, log 1. -/
def Obligations.OperationsStopOnlyOutsideTheTable : Prop :=
  ∀ (i : Instr) (s : State),
    (∃ t, exec i s = .next t) ∨
    (∃ b, i = .syncFeed b ∧ (s.st = .valid ∨ s.st = .crcError) ∧ exec i s = .fault .transientState) ∨
    (∃ b, i = .syncFeed b ∧ (s.st = .primaryHeader ∨ s.st = .secondaryHeader ∨ s.st = .data) ∧
      65542 ≤ s.fbuf.length ∧ exec i s = .fault .fbufFull)

/-! ### The build-time parameters -/

/-- The constants and the defaults of 00_scope.md R5; `exec`, `step` and `core` are the block at these defaults (log 7);
every other operation than SEQ.RESET, PKT.BUILD, FRAME.DES and SYNC.FEED is the same under every parameter; and `SEQ_INIT`
is what SEQ.RESET, RESET and the reset state give the counter. -/
def Obligations.ParametersReachOnlyTheirOperations : Prop :=
  (hdrLen = 16 ∧ priHdrLen = 6 ∧ secHdrLen = 10 ∧ crcLen = 4 ∧ sync0 = 0x55 ∧ sync1 = 0xAA ∧ maxPayload = 65521 ∧
    minFrame = 20 ∧ crcPolyReflected = 0xEDB88320 ∧ Config.hardware.lenAdj = 1 ∧ Config.hardware.seqInit = 0 ∧
    Config.hardware.surplusPolicy = .invalidLength ∧ Config.hardware.shortLenPolicy = .abort ∧
    Config.hardware.minDlen = 13 ∧ Config.hardware.fbufCap = 65542) ∧
  (∀ c : Config, c.minDlen + c.lenAdj.val = 14 ∧ c.fbufCap = 65541 + c.lenAdj.val) ∧
  ((∀ (i : Instr) (s : State), exec i s = execUnder Config.hardware i s) ∧
    (∀ s : State, step s = stepUnder Config.hardware s) ∧ Sys2Proof.core = coreUnder Config.hardware) ∧
  (∀ (c : Config) (i : Instr) (s : State), (∀ x, i ≠ .seqReset x) → (∀ x, i ≠ .pktBuild x) →
    (∀ f x, i ≠ .frameDes f x) → (∀ b, i ≠ .syncFeed b) → execUnder c i s = exec i s) ∧
  (∀ (c : Config) (x : BitVec 8) (s : State),
    execUnder c (.seqReset x) s = .next { s with seqCnt := c.seqInit, out := Outputs.quiet }) ∧
  (∀ (c : Config) (s : State) (rest : List Request), s.program = .reset :: rest →
    ∃ t, stepUnder c s = .next t ∧ SameRegisters (State.resetUnder c) t ∧ t.out = Outputs.quiet) ∧
  (∀ c : Config, (State.resetUnder c).seqCnt = c.seqInit ∧
    State.resetUnder c = { State.reset with seqCnt := c.seqInit })

/-- For every value of the parameters: reset establishes the first row of the table of 10_state.md R24, every step keeps
the table, and every step, from any state, keeps `FBUF` within `FBUF_CAP` (R14). -/
def Obligations.EveryConfigurationKeepsItsInvariants : Prop :=
  ∀ c : Config,
    ((State.resetUnder c).st = .idle ∧ Resting c (State.resetUnder c) = true) ∧
    (∀ s t : State, Resting c s = true → stepUnder c s = .next t → Resting c t = true) ∧
    (∀ s t : State, Memory.wf c s.fbuf = true → stepUnder c s = .next t → Memory.wf c t.fbuf = true)

/-- For every value of the parameters, no run from a state of the table of R24 stops (60_exceptions.md R121,
43_synchronizer.md R106 (a)). That a reserved word ends in a next state with an error is the model's reading, log 1; the
caller's list is its choice, log 4. -/
def Obligations.RunsUnderEveryConfigurationNeverStop : Prop :=
  ∀ (c : Config) (k : Nat) (s : State), Resting c s = true →
    ∃ t : State, Host.Core.run (coreUnder c) k s = .next t ∧ Resting c t = true

/-- Round trip through the operations for every value of the parameters (42_codec.md section 3, item (a)): PKT.BUILD,
FRAME.SER and FRAME.DES with the same option give the built Packet back with `crc_valid = 1`. -/
def Obligations.RoundTripUnderEveryConfiguration : Prop :=
  ∀ (c : Config) (f : Bool) (x : BitVec 8) (y z : BitVec 7) (s : State), s.inp.payload.length ≤ 65521 →
    ∃ (h : Header) (F : List Byte) (crc : BitVec 32) (t u v : State),
      execUnder c (.pktBuild x) s = .next t ∧ t.out.hdr = some h ∧ t.out.payload = some s.inp.payload ∧
      h.dataLength.toNat + c.lenAdj.val = 14 + s.inp.payload.length ∧
      execUnder c (.frameSer f y) { t with inp := { t.inp with hdr := h } } = .next u ∧ u.out.frame = some F ∧
      execUnder c (.frameDes f z) { u with inp := { u.inp with frame := F } } = .next v ∧
      v.out = { Outputs.quiet with
        hdr := some h, payload := some s.inp.payload, crcValid := some true, crcRx := some crc,
        crcCalc := some crc }

/-- What the parameters decide in FRAME.DES: bytes after the trailer of a well-formed frame give `InvalidLength` or are not
looked at, as `SURPLUS_POLICY` says (42_codec.md R88); a frame of a transmitter at `LEN_ADJ = 0` gives `InvalidLength` on a
block at `LEN_ADJ = 1`, under either policy (70_reset_and_hazards.md R142). -/
def Obligations.SurplusAndConventionFollowTheParameters : Prop :=
  (∀ (c : Config) (p : Packet) (f : Bool) (x : BitVec 7) (S : List Byte) (s : State),
    Packet.wf c p = true → S ≠ [] → s.inp.frame = serialize p f ++ S →
      execUnder c (.frameDes f x) s =
        match c.surplusPolicy with
        | .invalidLength => .next { s with out := { Outputs.quiet with err := .invalidLength } }
        | .ignore => .next { s with out := { Outputs.quiet with
            hdr := some p.header, payload := some p.payload, crcValid := some true,
            crcRx := some (crc32 (packHeader p.header ++ p.payload)),
            crcCalc := some (crc32 (packHeader p.header ++ p.payload)) } }) ∧
  (∀ (c d : Config) (p : Packet) (f : Bool) (x : BitVec 7) (s : State),
    c.lenAdj = 0 → d.lenAdj = 1 → Packet.wf c p = true → s.inp.frame = serialize p f →
      execUnder d (.frameDes f x) s = .next { s with out := { Outputs.quiet with err := .invalidLength } })
end

