-- ==== Sys2Proof/Laws/Bits.lean ====
section
/-! SUPPORT. Fields of concatenated bit strings, for widths that are variables, so that they also fit widths the reader of a
literal has already added up. -/

namespace Sys2Proof.Laws

/-- The low field of a concatenation. -/
theorem extract_low {n m : Nat} (a : BitVec n) (b : BitVec m) : (a ++ b).extractLsb' 0 m = b := by
  ext i hi
  simp [BitVec.getLsbD_append, hi]

/-- The high field of a concatenation. -/
theorem extract_high {n m : Nat} (a : BitVec n) (b : BitVec m) : (a ++ b).extractLsb' m n = a := by
  ext i hi
  simp [BitVec.getLsbD_append, BitVec.getLsbD_eq_getElem hi]

/-- A bit string is its high field before its low field. -/
theorem append_extract {n m : Nat} (v : BitVec (n + m)) : v.extractLsb' m n ++ v.extractLsb' 0 m = v := by
  ext i hi
  rw [BitVec.getElem_append]
  split
  · simp [BitVec.getLsbD_eq_getElem hi]
  · simp [show m + (i - m) = i by omega, BitVec.getLsbD_eq_getElem hi]

/-- A field inside the low part of a concatenation. -/
theorem extract_inside_low {n m : Nat} (a : BitVec n) (b : BitVec m) {i k : Nat} (h : i + k ≤ m) :
    (a ++ b).extractLsb' i k = b.extractLsb' i k := by
  ext j hj
  simp [BitVec.getLsbD_append, show i + j < m by omega]

/-- A field inside the high part of a concatenation. -/
theorem extract_inside_high {n m : Nat} (a : BitVec n) (b : BitVec m) {i k : Nat} (h : m ≤ i) :
    (a ++ b).extractLsb' i k = a.extractLsb' (i - m) k := by
  ext j hj
  simp [BitVec.getLsbD_append, show ¬ i + j < m by omega, show i - m + j = i + j - m by omega]

end Sys2Proof.Laws
end

