-- ==== Sys2Proof/Laws/Bytes.lean ====
section
/-! SUPPORT. Reading and writing numbers in byte sequences (00_scope.md section 7.2), the lengths of what the codec makes, and
the CRC of two sequences after each other. -/

namespace Sys2Proof.Machine

/-- A byte of the second of two sequences. -/
theorem byteAt_append_right (A B : List Byte) {i : Nat} (h : A.length ≤ i) :
    byteAt (A ++ B) i = byteAt B (i - A.length) := by
  simp [byteAt, List.getElem?_append_right h]

/-- A 16-bit number in the first of two sequences. -/
theorem be16_append_left (A B : List Byte) {i : Nat} (h : i + 1 < A.length) : be16 (A ++ B) i = be16 A i := by
  simp [be16, byteAt, List.getElem?_append_left h, List.getElem?_append_left (show i < A.length by omega)]

/-- A 16-bit number in the second of two sequences. -/
theorem be16_append_right (A B : List Byte) {i : Nat} (h : A.length ≤ i) :
    be16 (A ++ B) i = be16 B (i - A.length) := by
  simp only [be16]
  rw [byteAt_append_right A B h, byteAt_append_right A B (i := i + 1) (by omega),
    show i + 1 - A.length = i - A.length + 1 by omega]

/-- A 32-bit number in the second of two sequences. -/
theorem be32_append_right (A B : List Byte) {i : Nat} (h : A.length ≤ i) :
    be32 (A ++ B) i = be32 B (i - A.length) := by
  simp only [be32]
  rw [be16_append_right A B h, be16_append_right A B (i := i + 2) (by omega),
    show i + 2 - A.length = i - A.length + 2 by omega]

/-- A 16-bit number written and read back. -/
theorem be16_toBe16 (v : BitVec 16) : be16 (toBe16 v) 0 = v := Laws.append_extract (n := 8) (m := 8) v

/-- The bytes of a 16-bit number that was read. -/
theorem toBe16_be16 (B : List Byte) (i : Nat) : toBe16 (be16 B i) = [byteAt B i, byteAt B (i + 1)] :=
  congrArg₂ (fun a b => [a, b]) (Laws.extract_high _ _) (Laws.extract_low _ _)

/-- The upper half of a 32-bit number that was read. -/
theorem be32_high (B : List Byte) (i : Nat) : (be32 B i).extractLsb' 16 16 = be16 B i := Laws.extract_high _ _

/-- The lower half of a 32-bit number that was read. -/
theorem be32_low (B : List Byte) (i : Nat) : (be32 B i).extractLsb' 0 16 = be16 B (i + 2) := Laws.extract_low _ _

/-- A packed header has sixteen bytes. -/
theorem packHeader_length (h : Header) : (packHeader h).length = 16 := rfl

/-- A 32-bit number has four bytes. -/
theorem toBe32_length (v : BitVec 32) : (toBe32 v).length = 4 := rfl

/-- A frame has twenty bytes and its payload. -/
theorem frameOf_length (p : Packet) : (frameOf p).length = 20 + p.payload.length := by
  simp [frameOf, packHeader_length, toBe32_length]
  omega

/-- The CRC register over two sequences after each other. -/
theorem crcFold_append (A B : List Byte) : ∀ a, crcFold a (A ++ B) = crcFold (crcFold a A) B := by
  induction A with
  | nil => intro a; rfl
  | cons x A ih => intro a; exact ih _

end Sys2Proof.Machine
end

