-- ==== Sys2Proof/Laws/State.lean ====
section
/-! SUPPORT. One lemma per field per named update of the state, and the ends of an operation, all true by unfolding. -/

namespace Sys2Proof.Machine

@[simp] theorem finish_eq (o : Outputs) (s : State) : finish o s = .next { s with out := o } := rfl

@[simp] theorem emit_eq (e : Event) (s : State) :
    emit e s = .next { s with out := { Outputs.quiet with ev := some e } } := rfl

@[simp] theorem raiseError_eq (e : Err) (info : Option Nat) (s : State) :
    raiseError e info s = .next { s with out := { Outputs.quiet with err := e, errInfo := info } } := rfl

@[simp] theorem clearSync_crcAcc (s : State) : (clearSync s).crcAcc = s.crcAcc := rfl
@[simp] theorem clearSync_seqCnt (s : State) : (clearSync s).seqCnt = s.seqCnt := rfl
@[simp] theorem clearSync_st (s : State) : (clearSync s).st = .idle := rfl
@[simp] theorem clearSync_win (s : State) : (clearSync s).win = none := rfl
@[simp] theorem clearSync_fbuf (s : State) : (clearSync s).fbuf = [] := rfl
@[simp] theorem clearSync_dlen (s : State) : (clearSync s).dlen = 0 := rfl
@[simp] theorem clearSync_inp (s : State) : (clearSync s).inp = s.inp := rfl
@[simp] theorem clearSync_out (s : State) : (clearSync s).out = s.out := rfl
@[simp] theorem clearSync_program (s : State) : (clearSync s).program = s.program := rfl

@[simp] theorem advanceSeq_crcAcc (s : State) : (advanceSeq s).crcAcc = s.crcAcc := rfl
@[simp] theorem advanceSeq_seqCnt (s : State) : (advanceSeq s).seqCnt = s.seqCnt + 1 := rfl
@[simp] theorem advanceSeq_st (s : State) : (advanceSeq s).st = s.st := rfl
@[simp] theorem advanceSeq_win (s : State) : (advanceSeq s).win = s.win := rfl
@[simp] theorem advanceSeq_fbuf (s : State) : (advanceSeq s).fbuf = s.fbuf := rfl
@[simp] theorem advanceSeq_dlen (s : State) : (advanceSeq s).dlen = s.dlen := rfl
@[simp] theorem advanceSeq_inp (s : State) : (advanceSeq s).inp = s.inp := rfl
@[simp] theorem advanceSeq_out (s : State) : (advanceSeq s).out = s.out := rfl
@[simp] theorem advanceSeq_program (s : State) : (advanceSeq s).program = s.program := rfl

@[simp] theorem applyReset_crcAcc (c : Config) (s : State) : (applyReset c s).crcAcc = crcAllOnes := rfl
@[simp] theorem applyReset_seqCnt (c : Config) (s : State) : (applyReset c s).seqCnt = c.seqInit := rfl
@[simp] theorem applyReset_st (c : Config) (s : State) : (applyReset c s).st = .idle := rfl
@[simp] theorem applyReset_win (c : Config) (s : State) : (applyReset c s).win = none := rfl
@[simp] theorem applyReset_fbuf (c : Config) (s : State) : (applyReset c s).fbuf = [] := rfl
@[simp] theorem applyReset_dlen (c : Config) (s : State) : (applyReset c s).dlen = 0 := rfl
@[simp] theorem applyReset_inp (c : Config) (s : State) : (applyReset c s).inp = s.inp := rfl
@[simp] theorem applyReset_out (c : Config) (s : State) : (applyReset c s).out = Outputs.quiet := rfl
@[simp] theorem applyReset_program (c : Config) (s : State) : (applyReset c s).program = s.program := rfl

@[simp] theorem issueFirst_crcAcc (w : CmdWord) (s : State) : (issueFirst w s).crcAcc = s.crcAcc := rfl
@[simp] theorem issueFirst_seqCnt (w : CmdWord) (s : State) : (issueFirst w s).seqCnt = s.seqCnt := rfl
@[simp] theorem issueFirst_st (w : CmdWord) (s : State) : (issueFirst w s).st = s.st := rfl
@[simp] theorem issueFirst_win (w : CmdWord) (s : State) : (issueFirst w s).win = s.win := rfl
@[simp] theorem issueFirst_fbuf (w : CmdWord) (s : State) : (issueFirst w s).fbuf = s.fbuf := rfl
@[simp] theorem issueFirst_dlen (w : CmdWord) (s : State) : (issueFirst w s).dlen = s.dlen := rfl
@[simp] theorem issueFirst_inp (w : CmdWord) (s : State) : (issueFirst w s).inp = s.inp := rfl
@[simp] theorem issueFirst_out (w : CmdWord) (s : State) : (issueFirst w s).out = s.out := rfl
@[simp] theorem issueFirst_program (w : CmdWord) (s : State) : (issueFirst w s).program = .command w s.inp :: s.program := rfl

@[simp] theorem resetUnder_crcAcc (c : Config) : (State.resetUnder c).crcAcc = 0xFFFFFFFF := rfl
@[simp] theorem resetUnder_seqCnt (c : Config) : (State.resetUnder c).seqCnt = c.seqInit := rfl
@[simp] theorem resetUnder_st (c : Config) : (State.resetUnder c).st = .idle := rfl
@[simp] theorem resetUnder_win (c : Config) : (State.resetUnder c).win = none := rfl
@[simp] theorem resetUnder_fbuf (c : Config) : (State.resetUnder c).fbuf = [] := rfl
@[simp] theorem resetUnder_dlen (c : Config) : (State.resetUnder c).dlen = 0 := rfl
@[simp] theorem resetUnder_inp (c : Config) : (State.resetUnder c).inp = Inputs.idle := rfl
@[simp] theorem resetUnder_out (c : Config) : (State.resetUnder c).out = Outputs.quiet := rfl
@[simp] theorem resetUnder_program (c : Config) : (State.resetUnder c).program = [] := rfl

@[simp] theorem Outputs_quiet_crcOut : Outputs.quiet.crcOut = none := rfl
@[simp] theorem Outputs_quiet_hdr : Outputs.quiet.hdr = none := rfl
@[simp] theorem Outputs_quiet_payload : Outputs.quiet.payload = none := rfl
@[simp] theorem Outputs_quiet_hdrBytes : Outputs.quiet.hdrBytes = none := rfl
@[simp] theorem Outputs_quiet_seqOut : Outputs.quiet.seqOut = none := rfl
@[simp] theorem Outputs_quiet_frame : Outputs.quiet.frame = none := rfl
@[simp] theorem Outputs_quiet_frameLen : Outputs.quiet.frameLen = none := rfl
@[simp] theorem Outputs_quiet_crcValid : Outputs.quiet.crcValid = none := rfl
@[simp] theorem Outputs_quiet_crcRx : Outputs.quiet.crcRx = none := rfl
@[simp] theorem Outputs_quiet_crcCalc : Outputs.quiet.crcCalc = none := rfl
@[simp] theorem Outputs_quiet_err : Outputs.quiet.err = .noError := rfl
@[simp] theorem Outputs_quiet_errInfo : Outputs.quiet.errInfo = none := rfl
@[simp] theorem Outputs_quiet_ev : Outputs.quiet.ev = none := rfl

/-- A step from a state whose caller issues nothing. -/
theorem nextIssued_nil {s : State} (h : s.program = []) : nextIssued s = .nothing := by
  simp [nextIssued, h]

/-- A step from a state whose caller asserts RESET. -/
theorem nextIssued_reset {s : State} {rest : List Request} (h : s.program = .reset :: rest) :
    nextIssued s = .reset { s with program := rest } := by
  simp [nextIssued, h]

/-- A step from a state whose caller issues a command word. -/
theorem nextIssued_command {s : State} {w : CmdWord} {ports : Inputs} {rest : List Request}
    (h : s.program = .command w ports :: rest) :
    nextIssued s = .operation (decodeCmd w) { s with program := rest, inp := ports } := by
  simp [nextIssued, h]

/-- Everything a taken request can be. -/
theorem nextIssued_cases (s : State) :
    (s.program = [] ∧ nextIssued s = .nothing) ∨
    (∃ rest, s.program = .reset :: rest ∧ nextIssued s = .reset { s with program := rest }) ∨
    (∃ w ports rest, s.program = .command w ports :: rest ∧
      nextIssued s = .operation (decodeCmd w) { s with program := rest, inp := ports }) := by
  match h : s.program with
  | [] => exact .inl ⟨rfl, nextIssued_nil h⟩
  | .reset :: rest => exact .inr (.inl ⟨rest, rfl, nextIssued_reset h⟩)
  | .command w ports :: rest => exact .inr (.inr ⟨w, ports, rest, rfl, nextIssued_command h⟩)

/-- Everything a step can be, for any operations and parameters: idle, a RESET, or one operation. -/
theorem stepBy_cases (run : Instr → State → Host.Outcome State Fault Refusal) (c : Config) (s : State) :
    (s.program = [] ∧ stepBy run c s = .next s) ∨
    (∃ rest, s.program = .reset :: rest ∧ stepBy run c s = .next (applyReset c { s with program := rest })) ∨
    (∃ w ports rest, s.program = .command w ports :: rest ∧
      stepBy run c s = run (decodeCmd w) { s with program := rest, inp := ports }) := by
  unfold stepBy
  rcases nextIssued_cases s with ⟨h, e⟩ | ⟨rest, h, e⟩ | ⟨w, ports, rest, h, e⟩ <;> rw [e]
  · exact .inl ⟨h, rfl⟩
  · exact .inr (.inl ⟨rest, h, rfl⟩)
  · exact .inr (.inr ⟨w, ports, rest, h, rfl⟩)

end Sys2Proof.Machine
end

