-- ==== Sys2Proof/Laws/Ops.lean ====
section
/-! SUPPORT. For each shared operation, what it can do, said once; and that the memory operations keep the frame buffer
within its capacity (10_state.md R14). -/

namespace Sys2Proof.Machine

/-- An append that has room runs what follows it. -/
theorem appendThen_of_room {c : Config} {b : Byte} {s : State}
    {k : State → Host.Outcome State Fault Refusal} (h : s.fbuf.length < c.fbufCap) :
    appendThen c b s k = k { s with fbuf := s.fbuf ++ [b] } := if_pos h

/-- An append without room faults. -/
theorem appendThen_of_full {c : Config} {b : Byte} {s : State}
    {k : State → Host.Outcome State Fault Refusal} (h : c.fbufCap ≤ s.fbuf.length) :
    appendThen c b s k = .fault .fbufFull := if_neg (Nat.not_lt.mpr h)

/-- If an append and what follows answer a next state, there was room and what follows answers it. -/
theorem appendThen_next {c : Config} {b : Byte} {s t : State}
    {k : State → Host.Outcome State Fault Refusal} (h : appendThen c b s k = .next t) :
    s.fbuf.length < c.fbufCap ∧ k { s with fbuf := s.fbuf ++ [b] } = .next t := by
  unfold appendThen at h
  split at h
  · exact ⟨‹_›, h⟩
  · cases h

/-- The capacity check, said as a bound. -/
theorem memory_wf_iff (c : Config) (m : Memory) : Memory.wf c m = true ↔ m.length ≤ c.fbufCap := by
  simp [Memory.wf]

/-- The empty buffer is within its capacity: clearing keeps the form. -/
theorem memory_wf_nil (c : Config) : Memory.wf c [] = true := by simp [Memory.wf]

/-- An append that has room keeps the buffer within its capacity. -/
theorem memory_wf_append {c : Config} {m : Memory} (b : Byte) (h : m.length < c.fbufCap) :
    Memory.wf c (m ++ [b]) = true := by
  simp only [memory_wf_iff, List.length_append, List.length_singleton]
  omega

/-- Reset memory has the form under every parameter. -/
theorem memory_wf_resetUnder (c : Config) : Memory.wf c (State.resetUnder c).fbuf = true := memory_wf_nil _

/-- Reset memory has the form. -/
theorem memory_wf_reset : Memory.wf Config.hardware State.reset.fbuf = true := memory_wf_nil _

/-- Reading a byte after an append: the stored byte at the end, every other byte as before. -/
theorem fbufByte_append (s : State) (b : Byte) (a : Nat) :
    fbufByte { s with fbuf := s.fbuf ++ [b] } a = if a = s.fbuf.length then some b else fbufByte s a := by
  unfold fbufByte
  split
  · subst_vars
    simp
  · rcases Nat.lt_or_gt_of_ne ‹_› with h | h
    · simp [List.getElem?_append_left h]
    · rw [List.getElem?_eq_none (by simp; omega), List.getElem?_eq_none (by omega)]

/-- Construction either refuses a long payload or makes the Packet. -/
theorem buildPacket_cases (c : Config) (n : BitVec 14) (s : State) :
    (maxPayload < s.inp.payload.length ∧
      buildPacket c n s = raiseError .payloadTooLarge (some s.inp.payload.length) s) ∨
    (s.inp.payload.length ≤ maxPayload ∧
      buildPacket c n s = finish (packetResult (builtPacket c s.inp n)) s) := by
  unfold buildPacket
  split
  · exact .inl ⟨‹_›, rfl⟩
  · exact .inr ⟨by omega, rfl⟩

/-- Every end of FRAME.DES: an error with its datum, or a Packet; nothing else of the state changes. -/
theorem deserialize_cases (c : Config) (f : Bool) (B : List Byte) (s : State) :
    (deserialize c f B s = raiseError .syncMismatch none s ∧ afterMarker f B = none) ∨
    ∃ R, afterMarker f B = some R ∧
      (deserialize c f B s = raiseError .tooShort (some R.length) s ∨
        deserialize c f B s = raiseError .invalidLength none s ∨
        ∃ n, deserialize c f B s = finish (decodedFrame R n) s) := by
  unfold deserialize
  cases h : afterMarker f B with
  | none => exact .inl ⟨rfl, rfl⟩
  | some R =>
    refine .inr ⟨R, rfl, ?_⟩
    simp only [checkLength]
    split
    · exact .inl rfl
    · split
      · exact .inr (.inl rfl)
      · split
        · exact .inr (.inl rfl)
        · split
          · exact .inr (.inl rfl)
          · exact .inr (.inr ⟨_, rfl⟩)

/-- Everything a feed can do, when it answers a next state: the rows of the transition table of 43_synchronizer.md R102,
and the empty window (log 10). -/
theorem feed_cases {c : Config} {b : Byte} {s t : State} (h : feed c b s = .next t) :
    (s.st = .idle ∧ feedIdle b s = .next t) ∨
    (s.st = .sync ∧ s.win = none ∧ emit .noEvent { s with win := some b } = .next t) ∨
    (s.st = .sync ∧ s.win = some sync0 ∧ b = sync1 ∧
      emit .noEvent { s with win := none, fbuf := [], st := .primaryHeader } = .next t) ∨
    (s.st = .sync ∧ (∃ w, s.win = some w ∧ ¬ (w = sync0 ∧ b = sync1)) ∧
      emit .syncMismatch { s with win := some b } = .next t) ∨
    (s.st = .primaryHeader ∧ s.fbuf.length < c.fbufCap ∧
      ((s.fbuf.length + 1 = priHdrLen ∧ takeDataLength c { s with fbuf := s.fbuf ++ [b] } = .next t) ∨
        (s.fbuf.length + 1 ≠ priHdrLen ∧ emit .noEvent { s with fbuf := s.fbuf ++ [b] } = .next t))) ∨
    (s.st = .secondaryHeader ∧ s.fbuf.length < c.fbufCap ∧
      ((s.fbuf.length + 1 = hdrLen ∧ emit .noEvent { s with fbuf := s.fbuf ++ [b], st := .data } = .next t) ∨
        (s.fbuf.length + 1 ≠ hdrLen ∧ emit .noEvent { s with fbuf := s.fbuf ++ [b] } = .next t))) ∨
    (s.st = .data ∧ s.fbuf.length < c.fbufCap ∧
      ((s.fbuf.length + 1 = frameLenOf c s.dlen ∧
          completeFrame c { s with fbuf := s.fbuf ++ [b] } = .next t) ∨
        (s.fbuf.length + 1 ≠ frameLenOf c s.dlen ∧
          emit .noEvent { s with fbuf := s.fbuf ++ [b] } = .next t))) := by
  unfold feed at h
  split at h
  · rename_i hst
    exact .inl ⟨hst, h⟩
  · rename_i hst
    refine .inr ?_
    unfold feedSync at h
    split at h
    · rename_i hw
      exact .inl ⟨hst, hw, h⟩
    · rename_i w hw
      split at h
      · rename_i hm
        obtain ⟨rfl, rfl⟩ := hm
        exact .inr (.inl ⟨hst, hw, rfl, h⟩)
      · rename_i hm
        exact .inr (.inr (.inl ⟨hst, ⟨w, hw, hm⟩, h⟩))
  · rename_i hst
    obtain ⟨hr, hk⟩ := appendThen_next h
    refine .inr (.inr (.inr (.inr (.inl ⟨hst, hr, ?_⟩))))
    by_cases hl : s.fbuf.length + 1 = priHdrLen
    · exact .inl ⟨hl, by simpa [hl] using hk⟩
    · exact .inr ⟨hl, by simpa [hl] using hk⟩
  · rename_i hst
    obtain ⟨hr, hk⟩ := appendThen_next h
    refine .inr (.inr (.inr (.inr (.inr (.inl ⟨hst, hr, ?_⟩)))))
    by_cases hl : s.fbuf.length + 1 = hdrLen
    · exact .inl ⟨hl, by simpa [hl] using hk⟩
    · exact .inr ⟨hl, by simpa [hl] using hk⟩
  · rename_i hst
    obtain ⟨hr, hk⟩ := appendThen_next h
    refine .inr (.inr (.inr (.inr (.inr (.inr ⟨hst, hr, ?_⟩)))))
    by_cases hl : s.fbuf.length + 1 = frameLenOf c s.dlen
    · exact .inl ⟨hl, by simpa [hl] using hk⟩
    · exact .inr ⟨hl, by simpa [hl] using hk⟩
  · cases h
  · cases h

end Sys2Proof.Machine
end

