-- ==== Sys2Proof/Laws/PerInstr.lean ====
section
/-! SUPPORT. A statement made for every instruction by one lemma per constructor: its word carries its selector in bits 11
to 8 and its immediate in bits 7 to 0 (30_encoding.md R54). -/

namespace Sys2Proof.Laws.WordFields

/-- The two fields of the word of `i` are its selector and its immediate. -/
def Statement (i : Instr) : Prop := opOf (encode i) = selectorOf i ∧ immOf (encode i) = immediateOf i

/-- The fields of a word put together from a selector and an immediate. -/
theorem fields_of_append (a : BitVec 4) (b : BitVec 8) : opOf (a ++ b) = a ∧ immOf (a ++ b) = b :=
  ⟨extract_high a b, extract_low a b⟩

theorem reserved0 (x : BitVec 8) : Statement (.reserved0 x) := fields_of_append _ _

theorem crcInit (x : BitVec 8) : Statement (.crcInit x) := fields_of_append _ _

theorem crcUpdate (x : BitVec 8) : Statement (.crcUpdate x) := fields_of_append _ _

theorem crcFinal (x : BitVec 8) : Statement (.crcFinal x) := fields_of_append _ _

theorem crcCompute (x : BitVec 8) : Statement (.crcCompute x) := fields_of_append _ _

theorem hdrPack (x : BitVec 8) : Statement (.hdrPack x) := fields_of_append _ _

theorem hdrUnpack (x : BitVec 8) : Statement (.hdrUnpack x) := fields_of_append _ _

theorem seqNext (x : BitVec 8) : Statement (.seqNext x) := fields_of_append _ _

theorem seqReset (x : BitVec 8) : Statement (.seqReset x) := fields_of_append _ _

theorem pktBuild (x : BitVec 8) : Statement (.pktBuild x) := fields_of_append _ _

theorem frameSer (f : Bool) (x : BitVec 7) : Statement (.frameSer f x) := fields_of_append _ _

theorem frameDes (f : Bool) (x : BitVec 7) : Statement (.frameDes f x) := fields_of_append _ _

theorem syncFeed (x : BitVec 8) : Statement (.syncFeed x) := fields_of_append _ _

theorem syncExhaust (x : BitVec 8) : Statement (.syncExhaust x) := fields_of_append _ _

theorem reservedE (x : BitVec 8) : Statement (.reservedE x) := fields_of_append _ _

theorem reservedF (x : BitVec 8) : Statement (.reservedF x) := fields_of_append _ _

end Sys2Proof.Laws.WordFields
end

