-- ==== Sys2Proof/Laws/Runs.lean ====
section
/-! SUPPORT. What the decoder answers on a word put together from its two fields, the table of 10_state.md R24 row by row, the
length invariant of a Packet, and runs over two lists after each other. -/

namespace Sys2Proof.Machine

/-- The operation of a word put together from its two fields (30_encoding.md R54). -/
theorem decodeCmd_append (a : BitVec 4) (x : BitVec 8) :
    decodeCmd (a ++ x) =
      match a.toNat with
      | 0x0 => .reserved0 x
      | 0x1 => .crcInit x
      | 0x2 => .crcUpdate x
      | 0x3 => .crcFinal x
      | 0x4 => .crcCompute x
      | 0x5 => .hdrPack x
      | 0x6 => .hdrUnpack x
      | 0x7 => .seqNext x
      | 0x8 => .seqReset x
      | 0x9 => .pktBuild x
      | 0xA => .frameSer (x.getLsbD 0) (x.extractLsb' 1 7)
      | 0xB => .frameDes (x.getLsbD 0) (x.extractLsb' 1 7)
      | 0xC => .syncFeed x
      | 0xD => .syncExhaust x
      | 0xE => .reservedE x
      | _ => .reservedF x := by
  have h := Laws.WordFields.fields_of_append a x
  have hf : flagOf (a ++ x) = x.getLsbD 0 := by
    change (BitVec.getLsbD (w := 4 + 8) (a ++ x) 0) = _
    rw [BitVec.getLsbD_append]
    simp
  have hu : upperImmOf (a ++ x) = x.extractLsb' 1 7 := Laws.extract_inside_low a x (by omega)
  rw [decodeCmd, h.1, h.2, hf, hu] <;> rfl

/-- The rows of the table of 10_state.md R24. -/
theorem resting_iff (c : Config) (s : State) :
    Resting c s = true ↔
      (s.st = .idle ∧ s.win = none ∧ s.fbuf = [] ∧ s.dlen = 0) ∨
      (s.st = .sync ∧ s.win.isSome ∧ s.fbuf = [] ∧ s.dlen = 0) ∨
      (s.st = .primaryHeader ∧ s.win = none ∧ s.fbuf.length ≤ 5 ∧ s.dlen = 0) ∨
      (s.st = .secondaryHeader ∧ s.win = none ∧ 6 ≤ s.fbuf.length ∧ s.fbuf.length ≤ 15 ∧
        s.dlen = be16 s.fbuf 4 ∧ c.minDlen ≤ s.dlen.toNat) ∨
      (s.st = .data ∧ s.win = none ∧ 16 ≤ s.fbuf.length ∧ s.fbuf.length + 1 ≤ frameLenOf c s.dlen ∧
        s.dlen = be16 s.fbuf 4 ∧ c.minDlen ≤ s.dlen.toNat) := by
  unfold Resting
  cases h : s.st <;> simp [and_assoc]

/-- The length invariant of a Packet without a subtraction. -/
theorem packet_wf_iff (c : Config) (p : Packet) :
    Packet.wf c p = true ↔
      p.payload.length ≤ 65521 ∧ p.header.dataLength.toNat + c.lenAdj.val = 14 + p.payload.length := by
  have := c.lenAdj.isLt
  simp only [Packet.wf, Bool.and_eq_true, decide_eq_true_eq, beq_iff_eq]
  simp only [secHdrLen, crcLen, maxPayload]
  omega

/-- Operations issued from two lists after each other. -/
theorem execAll_append (A B : List Instr) (s : State) :
    execAll (A ++ B) s =
      match execAll A s with
      | .next t => execAll B t
      | .fault r => .fault r
      | .refused r => .refused r := by
  induction A generalizing s with
  | nil => rfl
  | cons a A ih =>
    simp only [List.cons_append, execAll]
    cases h : exec a s <;> simp [ih]

/-- One byte fed, then the rest. -/
theorem feedAll_cons {c : Config} {b : Byte} {B : List Byte} {s t u : State} {es : List Event}
    (h : feed c b s = .next t) (h2 : feedAll c B t = .next (u, es)) :
    feedAll c (b :: B) s = .next (u, t.out.ev.toList ++ es) := by
  simp only [feedAll, h, h2]

end Sys2Proof.Machine
end

