-- ==== Sys2Proof/Tests/Slice0.lean ====
section
/-! SUPPORT. The model's own tests, and for each statement with hypotheses a state and operands that meet them. Expected
results come from spec/95_test_vectors.md (the vector's id stands in the comment) or from the rule cited. -/

namespace Sys2Proof.Machine.Tests

/-! ### Helpers -/

/-- The next state of an outcome. -/
def nextOf (o : Host.Outcome State Fault Refusal) : Option State :=
  match o with
  | .next t => some t
  | .fault _ => none
  | .refused _ => none

/-- The fault of an outcome. -/
def faultOf (o : Host.Outcome State Fault Refusal) : Option Fault :=
  match o with
  | .next _ => none
  | .fault r => some r
  | .refused _ => none

/-- A state with these synchronizer registers, as at reset otherwise. -/
def syncState (st : SyncState) (win : Option Byte) (fbuf : List Byte) (dlen : BitVec 16) : State :=
  { State.reset with st := st, win := win, fbuf := fbuf, dlen := dlen }

/-- The reset state with these bytes on the ports `crc_buf`, `hdr_bytes`, `frame` and `payload`. -/
def withBytes (B : List Byte) : State :=
  { State.reset with inp := { Inputs.idle with crcBuf := B, hdrBytes := B, frame := B, payload := B } }

/-- The header of D-H12. -/
def headerH12 : Header :=
  { version := 3, packetType := 1, secondaryHeaderFlag := 0, apid := 0x2AB, sequenceFlags := 1, sequenceCount := 0x1555,
    dataLength := 0x000D, timingInfo := 0x0000DEADBEEF, segmentNumber := 2, functionCode := 0x80, addressCode := 0x00FF }

/-- The sixteen bytes of D-H12. -/
def bytesH12 : List Byte :=
  [0x72, 0xAB, 0x55, 0x55, 0x00, 0x0D, 0x00, 0x00, 0xDE, 0xAD, 0xBE, 0xEF, 0x02, 0x80, 0x00, 0xFF]

/-- The header fields of S1, with a `data_length`. -/
def headerS1 (dataLength : BitVec 16) : Header :=
  { version := 1, packetType := 0, secondaryHeaderFlag := 1, apid := 0x7FF, sequenceFlags := 3, sequenceCount := 100,
    dataLength := dataLength, timingInfo := 98765, segmentNumber := 1, functionCode := 5, addressCode := 0x1234 }

/-- The payload of S1. -/
def hello : List Byte := [0x48, 0x65, 0x6C, 0x6C, 0x6F, 0x21]

/-- The frame of S1b after its marker. -/
def frameS1b : List Byte :=
  [0x2F, 0xFF, 0xC0, 0x64, 0x00, 0x13, 0x00, 0x00, 0x00, 0x01, 0x81, 0xCD, 0x01, 0x05, 0x12, 0x34,
    0x48, 0x65, 0x6C, 0x6C, 0x6F, 0x21, 0x95, 0xA7, 0x89, 0xD8]

/-- The frame of D-C1, the shortest there is. -/
def frameC1 : List Byte :=
  [0x00, 0x00, 0x00, 0x00, 0x00, 0x0D, 0x00, 0x00, 0x00, 0x00, 0x00, 0x00, 0x00, 0x00, 0x00, 0x00,
    0x27, 0x2F, 0x06, 0x52]

/-- The reset state with the ports of S1: `apid_in` = 0x7FF, the Packet's `data_length` as given. -/
def portsS1 (dataLength : BitVec 16) : State :=
  { State.reset with inp := { Inputs.idle with hdr := headerS1 dataLength, apidIn := 0x7FF, payload := hello } }

/-! ### Well-formedness: each check refuses an ill-formed term -/

theorem test_wf_refuses_ignored_bits :
    Instr.wf (.crcInit 0x55) = false ∧ Instr.wf (.crcFinal 1) = false ∧ Instr.wf (.crcCompute 1) = false ∧
    Instr.wf (.hdrPack 1) = false ∧ Instr.wf (.hdrUnpack 0x80) = false ∧ Instr.wf (.seqNext 1) = false ∧
    Instr.wf (.seqReset 1) = false ∧ Instr.wf (.pktBuild 1) = false ∧ Instr.wf (.frameSer true 1) = false ∧
    Instr.wf (.frameDes false 0x40) = false ∧ Instr.wf (.syncExhaust 1) = false ∧ Instr.wf (.reserved0 1) = false ∧
    Instr.wf (.reservedE 0x55) = false ∧ Instr.wf (.reservedF 0xFF) = false := by decide

theorem test_wf_accepts_canonical_words :
    Instr.wf (.crcInit 0) = true ∧ Instr.wf (.crcUpdate 0xFF) = true ∧ Instr.wf (.frameSer true 0) = true ∧
    Instr.wf (.syncFeed 0xAA) = true := by decide

/-- A `data_length` one too small for the payload (30_encoding.md R50). -/
theorem test_wf_refuses_wrong_data_length :
    Packet.wf Config.hardware ⟨headerS1 18, hello⟩ = false ∧ Packet.wf Config.hardware ⟨headerS1 19, hello⟩ = true := by
  decide

/-- A payload of 65522 bytes, whose `data_length` would fit (30_encoding.md R51). -/
theorem test_wf_refuses_long_payload :
    ∀ P : List Byte, P.length = 65522 → Packet.wf Config.hardware ⟨headerS1 0xFFFF, P⟩ = false := by
  intro P h
  simp [Packet.wf, maxPayload, h]

theorem test_is_operation_refuses_reserved :
    Instr.isOperation (.reserved0 0) = false ∧ Instr.isOperation (.reservedE 0) = false ∧
    Instr.isOperation (.reservedF 0) = false ∧ Instr.isOperation (.syncExhaust 0) = true := by decide

/-! ### Decoding, every word written out from the table of 30_encoding.md R54: `op` in bits 11 to 8, `imm8` below -/

theorem test_decode_crc_init : decodeCmd 0b000100000000 = .crcInit 0 := by decide
theorem test_decode_crc_update : decodeCmd 0b001001100001 = .crcUpdate 0x61 := by decide
theorem test_decode_crc_final : decodeCmd 0b001100000000 = .crcFinal 0 := by decide
theorem test_decode_crc_compute : decodeCmd 0b010000000000 = .crcCompute 0 := by decide
theorem test_decode_hdr_pack : decodeCmd 0b010100000000 = .hdrPack 0 := by decide
theorem test_decode_hdr_unpack : decodeCmd 0b011000000000 = .hdrUnpack 0 := by decide
theorem test_decode_seq_next : decodeCmd 0b011100000000 = .seqNext 0 := by decide
theorem test_decode_seq_reset : decodeCmd 0b100000000000 = .seqReset 0 := by decide
theorem test_decode_pkt_build : decodeCmd 0b100100000000 = .pktBuild 0 := by decide
theorem test_decode_frame_ser :
    decodeCmd 0b101000000001 = .frameSer true 0 ∧ decodeCmd 0b101010000010 = .frameSer false 0b1000001 := by decide
theorem test_decode_frame_des :
    decodeCmd 0b101100000000 = .frameDes false 0 ∧ decodeCmd 0b101100000001 = .frameDes true 0 := by decide
theorem test_decode_sync_feed : decodeCmd 0b110010101010 = .syncFeed 0xAA := by decide
theorem test_decode_sync_exhaust : decodeCmd 0b110100000000 = .syncExhaust 0 := by decide
theorem test_decode_reserved_0 : decodeCmd 0b000001010101 = .reserved0 0x55 := by decide
theorem test_decode_reserved_e : decodeCmd 0b111001010101 = .reservedE 0x55 := by decide
theorem test_decode_reserved_f : decodeCmd 0b111111111111 = .reservedF 0xFF := by decide

/-- A word of 12 bits in two whole bytes decodes; a bit above bit 11 is refused by name (00_scope.md R7). -/
theorem test_decode_table_word :
    decodeTableWord 16 0x261 = some (.crcUpdate 0x61) ∧ decodeTableWord 12 0xD00 = some (.syncExhaust 0) ∧
    decodeTableWord 16 0x1261 = none := by decide

theorem test_decode_refuses_wide : decode 0x1000 = .error .widerThanCommandPort := rfl

/-! ### The step -/

/-- D-K15 through the command word 0x261. -/
theorem test_step_runs_fetched_word :
    (nextOf (step (State.withFetchWord State.reset 12 0x261))).map State.crcAcc = some 0x174841BC := by decide +kernel

/-- D-E4. -/
theorem test_step_reset :
    (nextOf (step { syncState .data none frameC1 13 with
      crcAcc := 0x174841BC, seqCnt := 5, program := [.reset] })) = some State.reset := by decide +kernel

theorem test_step_idle : nextOf (step State.reset) = some State.reset := by decide +kernel

/-! ### CRC operations -/

/-- D-K14, D-K16. -/
theorem test_crc_step : crcStep 0xFFFFFFFF 0x00 = 0x2DFD1072 ∧ crcStep 0xFFFFFFFF 0xFF = 0x00FFFFFF := by
  decide +kernel

theorem test_crc_init :
    (nextOf (exec (.crcInit 0) { State.reset with crcAcc := 0x174841BC })).map State.crcAcc = some 0xFFFFFFFF := by
  decide +kernel

/-- D-K20, second byte. -/
theorem test_crc_update :
    (nextOf (exec (.crcUpdate 0x62) { State.reset with crcAcc := 0x174841BC })).map State.crcAcc = some 0x617CB792 := by
  decide +kernel

/-- D-K20, end: the accumulator stays. -/
theorem test_crc_final :
    (nextOf (exec (.crcFinal 0) { State.reset with crcAcc := 0xCADBBE3D })).map (fun t => (t.out.crcOut, t.crcAcc)) =
      some (some 0x352441C2, 0xCADBBE3D) := by decide +kernel

/-- S2, the source's own value; and D-K6. -/
theorem test_crc_compute_source_vector :
    (nextOf (exec (.crcCompute 0) (withBytes
      [0x2F, 0xFF, 0xC0, 0x64, 0x00, 0x14, 0x00, 0x00, 0x00, 0x01, 0x81, 0xCD, 0x01, 0x05, 0x12, 0x34,
        0x48, 0x65, 0x6C, 0x6C, 0x6F, 0x21]))).map (fun t => t.out.crcOut) = some (some 0xB535F593) := by
  decide +kernel

theorem test_crc_compute_check_value :
    (nextOf (exec (.crcCompute 0) (withBytes [0x31, 0x32, 0x33, 0x34, 0x35, 0x36, 0x37, 0x38, 0x39]))).map
      (fun t => t.out.crcOut) = some (some 0xCBF43926) := by decide +kernel

/-! ### Header operations -/

/-- D-H12. -/
theorem test_hdr_pack :
    (nextOf (exec (.hdrPack 0) { State.reset with inp := { Inputs.idle with hdr := headerH12 } })).map
      (fun t => t.out.hdrBytes) = some (some bytesH12) := by decide +kernel

/-- D-H14. -/
theorem test_hdr_pack_s1b : packHeader (headerS1 19) = frameS1b.take 16 := by decide +kernel

/-- D-H12, with a byte after the sixteenth (D-H17). -/
theorem test_hdr_unpack :
    (nextOf (exec (.hdrUnpack 0) (withBytes (bytesH12 ++ [0x99])))).map (fun t => t.out.hdr) = some (some headerH12) := by
  decide +kernel

/-- D-H16. -/
theorem test_hdr_unpack_truncated :
    (nextOf (exec (.hdrUnpack 0) (withBytes (List.replicate 15 0)))).map
      (fun t => (errPort t, t.out.errInfo, t.out.hdr)) = some (1, some 15, none) := by decide +kernel

/-- D-Q4. -/
theorem test_seq_next_wraps :
    (nextOf (exec (.seqNext 0) { State.reset with seqCnt := 0x3FFF })).map (fun t => (t.out.seqOut, t.seqCnt)) =
      some (some 0x3FFF, 0) := by decide +kernel

/-- D-Q5. -/
theorem test_seq_reset :
    (nextOf (exec (.seqReset 0) { State.reset with seqCnt := 0x1234 })).map State.seqCnt = some 0 := by decide +kernel

/-! ### Codec operations -/

/-- S1b: the built header; D-H13c: the mask of `apid_in`. -/
theorem test_pkt_build :
    (nextOf (exec (.pktBuild 0) (portsS1 0))).map (fun t => (t.out.hdr, t.out.payload)) =
      some (some (headerS1 19), some hello) ∧ maskApid 0xABCD = 0x3CD := by decide +kernel

/-- D-C7. -/
theorem test_pkt_build_too_large :
    ∀ P : List Byte, P.length = 65522 →
      ∃ t, exec (.pktBuild 0) (withBytes P) = .next t ∧ errPort t = 9 ∧ t.out.hdr = none := by
  intro P h
  refine ⟨_, if_pos ?_, rfl, rfl⟩
  simp [withBytes, maxPayload, h]

/-- S1b, and D-E5: `imm8` = 0x03 does the same. -/
theorem test_frame_ser :
    (nextOf (exec (.frameSer true 0) (portsS1 19))).map (fun t => t.out.frame) =
      some (some ([0x55, 0xAA] ++ frameS1b)) ∧
    exec (decodeCmd 0xA03) (portsS1 19) = exec (decodeCmd 0xA01) (portsS1 19) := ⟨by decide +kernel, rfl⟩

/-- S1a: with `LEN_ADJ` = 0 the same fields give the source's bytes. -/
theorem test_frame_ser_len_adj_0 :
    (builtPacket { Config.hardware with lenAdj := 0 } (portsS1 0).inp 100).header = headerS1 20 ∧
    serialize ⟨headerS1 20, hello⟩ true =
      [0x55, 0xAA, 0x2F, 0xFF, 0xC0, 0x64, 0x00, 0x14, 0x00, 0x00, 0x00, 0x01, 0x81, 0xCD, 0x01, 0x05, 0x12, 0x34,
        0x48, 0x65, 0x6C, 0x6C, 0x6F, 0x21, 0xB5, 0x35, 0xF5, 0x93] := by decide +kernel

/-- D-C9: the last byte `D8` became `D9`. -/
theorem test_frame_des_bad_crc :
    (nextOf (exec (.frameDes true 0) (withBytes ([0x55, 0xAA] ++ frameS1b.take 25 ++ [0xD9])))).map
      (fun t => t.out) = some { Outputs.quiet with
        hdr := some (headerS1 19), payload := some hello, crcValid := some false, crcRx := some 0x95A789D9
        crcCalc := some 0x95A789D8 } := by decide +kernel

/-- D-C19, D-C18, D-C16, D-C17, D-C25: the errors and their order. -/
theorem test_frame_des_errors :
    (nextOf (exec (.frameDes false 0) (withBytes []))).map errPort = some 2 ∧
    (nextOf (exec (.frameDes true 0) (withBytes []))).map errPort = some 3 ∧
    (nextOf (exec (.frameDes true 0) (withBytes ([0x55, 0xAA] ++ List.replicate 19 0)))).map errPort = some 2 ∧
    (nextOf (exec (.frameDes false 0) (withBytes (List.replicate 20 0)))).map errPort = some 4 ∧
    (nextOf (exec (.frameDes true 0) (withBytes ([0x55, 0xAA] ++ frameS1b.take 25)))).map errPort = some 4 := by
  decide +kernel

/-- D-C24: a surplus byte under both policies. -/
theorem test_frame_des_surplus :
    (nextOf (deserialize Config.hardware false (frameC1 ++ [0]) State.reset)).map errPort = some 4 ∧
    (nextOf (deserialize { Config.hardware with surplusPolicy := .ignore } false (frameC1 ++ [0]) State.reset)).map
      (fun t => (errPort t, t.out.crcValid)) = some (0, some true) := by decide +kernel

/-- D-E3: a refused construction leaves the counter. -/
theorem test_pkt_new_too_large :
    ∀ P : List Byte, P.length = 65522 →
      ∃ t, pseudoPktNew { withBytes P with seqCnt := 7 } = .next t ∧ errPort t = 9 ∧ t.seqCnt = 7 := by
  intro P h
  refine ⟨_, if_pos ?_, rfl, rfl⟩
  simp [withBytes, maxPayload, h]

/-! ### Other parameters than this hardware's -/

/-- The parameters of S1a. -/
def lenAdj0 : Config := { Config.hardware with lenAdj := 0 }

/-- S1a: PKT.BUILD and FRAME.DES of a block at `LEN_ADJ` = 0, one step each of its machine. -/
theorem test_len_adj_0_build :
    (nextOf (stepUnder lenAdj0 (State.withFetchWord (portsS1 0) 16 0x900))).map (fun t => t.out.hdr) =
      some (some (headerS1 20)) := by decide +kernel

theorem test_len_adj_0_des :
    (nextOf (stepUnder lenAdj0 (State.withFetchWord (withBytes (serialize ⟨headerS1 20, hello⟩ true)) 16 0xB01))).map
      (fun t => (t.out.hdr, t.out.crcValid, t.out.crcRx)) =
      some (some (headerS1 20), some true, some 0xB535F593) := by decide +kernel

/-- X1: the default block given the bytes of S1a. -/
theorem test_len_adj_mixed :
    (nextOf (exec (.frameDes true 0) (withBytes (serialize ⟨headerS1 20, hello⟩ true)))).map errPort = some 4 := by
  decide +kernel

/-- D-Y13, its last byte. -/
theorem test_len_adj_0_last_byte :
    (nextOf (stepUnder lenAdj0 (State.withFetchWord
      (syncState .data none ((frameOf ⟨headerS1 20, hello⟩).take 25) 20) 16 0xC93))).map (fun t => (stPort t, evPort t)) =
      some (0, some 2) := by decide +kernel

/-- `SEQ_INIT` = 7: the state after RESET and the step that asserts it (41_header.md R79, 70_reset_and_hazards.md R135). -/
theorem test_seq_init :
    (State.resetUnder { Config.hardware with seqInit := 7 }).seqCnt = 7 ∧
    (nextOf (stepUnder { Config.hardware with seqInit := 7 } { State.reset with program := [.reset] })).map
      State.seqCnt = some 7 := by decide +kernel

/-! ### The synchronizer -/

/-- D-Y1, steps 2 and 3. -/
theorem test_sync_feed_window :
    (nextOf (exec (.syncFeed 0x55) (syncState .sync (some 0x11) [] 0))).map (fun t => (t.st, t.win, evPort t)) =
      some (.sync, some 0x55, some 1) ∧
    (nextOf (exec (.syncFeed 0xAA) (syncState .sync (some 0x55) [] 0))).map (fun t => (t.st, t.win, evPort t)) =
      some (.primaryHeader, none, some 0) := by decide +kernel

/-- D-Y7 and D-Y8 at the sixth byte. -/
theorem test_sync_feed_data_length :
    (nextOf (exec (.syncFeed 0x0C) (syncState .primaryHeader none [0, 0, 0, 0, 0] 0))).map
      (fun t => (t.st, t.fbuf, t.dlen, evPort t)) = some (.idle, [], 0, some 4) ∧
    (nextOf (exec (.syncFeed 0x0D) (syncState .primaryHeader none [0, 0, 0, 0, 0] 0))).map
      (fun t => (t.st, t.fbuf, t.dlen, evPort t)) =
      some (.secondaryHeader, [0, 0, 0, 0, 0, 0x0D], 13, some 0) := by decide +kernel

/-- D-Y1, step 19. -/
theorem test_sync_feed_last_header_byte :
    (nextOf (exec (.syncFeed 0x34) (syncState .secondaryHeader none (frameS1b.take 15) 19))).map
      (fun t => (t.st, t.fbuf, evPort t)) = some (.data, frameS1b.take 16, some 0) := by decide +kernel

/-- D-Y1, step 29; and with a wrong last byte the other event. -/
theorem test_sync_feed_last_byte :
    (nextOf (exec (.syncFeed 0xD8) (syncState .data none (frameS1b.take 25) 19))).map
      (fun t => (t.st, t.fbuf, evPort t, handedOver t)) =
      some (.idle, [], some 2, some ⟨frameS1b, 26, 0x95A789D8, 0x95A789D8⟩) ∧
    (nextOf (exec (.syncFeed 0xD9) (syncState .data none (frameS1b.take 25) 19))).map
      (fun t => (stPort t, evPort t)) = some (0, some 3) := by decide +kernel

/-- 43_synchronizer.md R103, the example. -/
theorem test_sync_exhaust :
    nextOf (exec (.syncExhaust 0) (syncState .data none (frameC1.take 19) 13)) =
      some { State.reset with out := { Outputs.quiet with ev := some .noEvent } } := by decide +kernel

/-- Outside the table of 10_state.md R24 a feed stops (log 9). -/
theorem test_sync_feed_transient :
    faultOf (exec (.syncFeed 0) (syncState .valid none [] 0)) = some .transientState := by decide

/-! ### Reserved selectors -/

/-- D-E1. -/
theorem test_reserved_0 :
    nextOf (exec (.reserved0 0) (syncState .data none frameC1 13)) =
      some { syncState .data none frameC1 13 with out := { Outputs.quiet with err := .reservedOp } } := by
  decide +kernel

/-- D-E2. -/
theorem test_reserved_e : (nextOf (exec (decodeCmd 0xE55) State.reset)).map errPort = some 15 := by decide +kernel

/-- D-E2. -/
theorem test_reserved_f : (nextOf (exec (decodeCmd 0xFFF) State.reset)).map errPort = some 15 := by decide +kernel

/-! ### Witnesses: the hypotheses of each statement, met by concrete states and operands, each clause at its bounds -/

theorem witness_StepExecutesTheIssuedOperation :
    (issueFirst 0x261 State.reset).program = .command 0x261 Inputs.idle :: [] ∧
    ({ syncState .data none frameC1 13 with program := [.reset, .reset] } : State).program = .reset :: [.reset] :=
  ⟨rfl, rfl⟩

theorem witness_IdleBlockKeepsAllItsState : State.reset.program = [] := rfl

theorem witness_ResetLoadsEveryRegister :
    ({ syncState .data none frameC1 13 with program := [.reset, .reset] } : State).program = .reset :: [.reset] := rfl

/-- Different ignored bits: an operation without immediate, one with the byte, one with the option. -/
theorem witness_UnusedWordBitsAreIgnored :
    (opOf 0x155 = opOf 0x1AA ∧ (opOf 0x155 = 0x2 ∨ opOf 0x155 = 0xC → immOf 0x155 = immOf 0x1AA) ∧
      (opOf 0x155 = 0xA ∨ opOf 0x155 = 0xB → flagOf 0x155 = flagOf 0x1AA)) ∧
    (opOf 0xC61 = opOf 0xC61 ∧ immOf 0xC61 = immOf 0xC61) ∧
    (opOf 0xA03 = opOf 0xAFF ∧ (opOf 0xA03 = 0x2 ∨ opOf 0xA03 = 0xC → immOf 0xA03 = immOf 0xAFF) ∧
      flagOf 0xA03 = flagOf 0xAFF) := by decide

theorem witness_CrcFinalReadsTheComplement :
    State.reset.crcAcc = crcFold 0xFFFFFFFF [] ∧
    ({ State.reset with crcAcc := 0x174841BC } : State).crcAcc = crcFold 0xFFFFFFFF [0x61] := by decide +kernel

/-- The caller restarts a stream by RESET, feeds a byte and reads it. -/
theorem witness_CrcStreamEqualsCompute :
    State.reset.crcAcc = crcFold 0xFFFFFFFF [] ∧
    ∃ t, Host.Core.run Sys2Proof.core
      ({ State.reset with program := [.reset, .command 0x261 Inputs.idle, .command 0x300 Inputs.idle] } :
        State).program.length
      { State.reset with program := [.reset, .command 0x261 Inputs.idle, .command 0x300 Inputs.idle] } = .next t :=
  ⟨rfl, _, rfl⟩

theorem witness_HdrUnpackFollowsTheBitTable :
    (withBytes (bytesH12.take 15)).inp.hdrBytes.length = 15 ∧ (withBytes []).inp.hdrBytes.length < 16 ∧
    16 ≤ (withBytes bytesH12).inp.hdrBytes.length := by decide

theorem witness_HdrPackAndUnpackAreInverse : (withBytes bytesH12).inp.hdrBytes.length = 16 := by decide

/-- The shortest payload, the longest that is accepted, and the shortest that is not. -/
theorem witness_PktBuildComputesDataLength :
    (withBytes []).inp.payload.length ≤ 65521 ∧
    (withBytes (List.replicate 65521 0)).inp.payload.length ≤ 65521 ∧
    65521 < (withBytes (List.replicate 65522 0)).inp.payload.length :=
  ⟨by decide, Nat.le_of_eq List.length_replicate, Nat.lt_of_lt_of_eq (by decide) List.length_replicate.symm⟩

theorem witness_BuiltPacketsSatisfyTheLengthInvariant :
    (withBytes (List.replicate 65521 0)).inp.payload.length ≤ 65521 := Nat.le_of_eq List.length_replicate

/-- A well-formed Packet under each value of `LEN_ADJ`. -/
theorem witness_FrameDeclaresItsLength :
    Packet.wf Config.hardware ⟨headerS1 19, hello⟩ = true ∧
    Packet.wf { Config.hardware with lenAdj := 0 } ⟨headerS1 20, hello⟩ = true := by decide

/-- The shortest frame without a marker, and S1b with it. -/
theorem witness_FrameDesCompletesOnExactLength :
    ((withBytes frameC1).inp.frame = (if false then [0x55, 0xAA] else []) ++ frameC1 ∧
      13 ≤ (be16 frameC1 4).toNat ∧ frameC1.length = (be16 frameC1 4).toNat + 7) ∧
    ((withBytes ([0x55, 0xAA] ++ frameS1b)).inp.frame = (if true then [0x55, 0xAA] else []) ++ frameS1b ∧
      13 ≤ (be16 frameS1b 4).toNat ∧ frameS1b.length = (be16 frameS1b 4).toNat + 7) := by decide

theorem witness_FrameDesFollowsItsFiveSteps :
    frameS1b = (if true then ([0x55, 0xAA] ++ frameS1b).drop 2 else [0x55, 0xAA] ++ frameS1b) ∧
    19 = (be16 frameS1b 4).toNat := by decide

theorem witness_BuildSerializeDeserializeRoundTrip :
    (withBytes []).inp.payload.length ≤ 65521 ∧
    (withBytes (List.replicate 65521 0)).inp.payload.length ≤ 65521 :=
  ⟨by decide, Nat.le_of_eq List.length_replicate⟩

theorem witness_RoundTripExactlyForTheLengthInvariant :
    (⟨headerS1 19, hello⟩ : Packet).payload.length ≤ 65521 ∧
    (⟨headerS1 19, List.replicate 65521 0⟩ : Packet).payload.length ≤ 65521 :=
  ⟨by decide, Nat.le_of_eq List.length_replicate⟩

theorem witness_MissingMarkerIsSyncMismatch : ¬ (headerWord0 (headerS1 19) = 0x55AA) := by decide

/-- A marker bit, the two `data_length` bytes, the first header bit, the last trailer bit, with the marker; a
`data_length` bit without it. -/
theorem witness_SingleBitFlipIsNeverValid :
    Packet.wf Config.hardware ⟨headerS1 19, hello⟩ = true ∧ (serialize ⟨headerS1 19, hello⟩ true).length = 28 ∧
    (serialize ⟨headerS1 19, hello⟩ false).length = 26 ∧ (7 : Nat) < 8 ∧
    (1 < 2 ∧ 1 < 28) ∧ (6 = 2 + 4 ∧ 6 < 28) ∧ (7 = 2 + 5 ∧ 7 < 28) ∧ (2 < 28 ∧ 27 < 28) ∧ (4 = 0 + 4 ∧ 4 < 26) := by
  decide

theorem witness_PktNewUsesTheCounter :
    65521 < (withBytes (List.replicate 65522 0)).inp.payload.length ∧
    (withBytes (List.replicate 65521 0)).inp.payload.length ≤ 65521 :=
  ⟨Nat.lt_of_lt_of_eq (by decide) List.length_replicate.symm, Nat.le_of_eq List.length_replicate⟩

theorem witness_SyncFeedInIdleOpensTheWindow : State.reset.st = .idle := rfl

theorem witness_SyncFeedInSyncSlidesTheWindow :
    (syncState .sync (some 0x55) [] 0).st = .sync ∧ (syncState .sync (some 0x55) [] 0).win = some 0x55 := by decide

/-- No byte yet, and five, so that the sixth comes: below and at the smallest `data_length`. -/
theorem witness_SyncFeedInPrimaryHeader :
    ((syncState .primaryHeader none [] 0).st = .primaryHeader ∧ (syncState .primaryHeader none [] 0).fbuf.length ≤ 5) ∧
    ((syncState .primaryHeader none [0, 0, 0, 0, 0] 0).st = .primaryHeader ∧
      (syncState .primaryHeader none [0, 0, 0, 0, 0] 0).fbuf.length ≤ 5 ∧
      [0, 0, 0, 0, 0, 12] = (syncState .primaryHeader none [0, 0, 0, 0, 0] 0).fbuf ++ [12] ∧
      (be16 [0, 0, 0, 0, 0, 12] 4).toNat < 13 ∧ (be16 [0, 0, 0, 0, 0, 13] 4).toNat = 13) := by decide

theorem witness_SyncFeedInSecondaryHeader :
    Config.hardware.minDlen ≤ (13 : BitVec 16).toNat ∧
    (syncState .secondaryHeader none (frameC1.take 6) 13).st = .secondaryHeader ∧
    (syncState .secondaryHeader none (frameC1.take 6) 13).fbuf.length ≤ 15 ∧
    (syncState .secondaryHeader none (frameC1.take 15) 13).fbuf.length = 15 := by decide

/-- The last byte of the frame, and one before it. -/
theorem witness_SyncFeedInData :
    (syncState .data none (frameC1.take 19) 13).st = .data ∧
    (syncState .data none (frameC1.take 19) 13).fbuf.length < (13 : BitVec 16).toNat + 7 ∧
    frameC1 = (syncState .data none (frameC1.take 19) 13).fbuf ++ [0x52] ∧
    frameC1.length = (13 : BitVec 16).toNat + 7 ∧
    (syncState .data none (frameC1.take 18) 13).fbuf.length < (13 : BitVec 16).toNat + 7 := by decide

/-- The five rows of the table, at the bounds of their lengths. -/
theorem witness_SyncFeedIsTotalOnRestingStates :
    Resting Config.hardware State.reset = true ∧
    Resting Config.hardware (syncState .sync (some 0) [] 0) = true ∧
    Resting Config.hardware (syncState .primaryHeader none [] 0) = true ∧
    Resting Config.hardware (syncState .primaryHeader none (frameC1.take 5) 0) = true ∧
    Resting Config.hardware (syncState .secondaryHeader none (frameC1.take 6) 13) = true ∧
    Resting Config.hardware (syncState .secondaryHeader none (frameC1.take 15) 13) = true ∧
    Resting Config.hardware (syncState .data none (frameC1.take 16) 13) = true ∧
    Resting Config.hardware (syncState .data none (frameC1.take 19) 13) = true := by decide

theorem witness_FeedingChunksIsFeedingBytes :
    (∃ t u, exec (.syncFeed 0x55) State.reset = .next t ∧ t.out.ev = some .noEvent ∧
      pseudoSyncFeedN [0xAA] t = .next (u, [.noEvent]) ∧ pseudoSyncFeedN [0x55] State.reset = .next (t, [.noEvent])) ∧
    Resting Config.hardware State.reset = true := ⟨⟨_, _, rfl, rfl, rfl, rfl⟩, rfl⟩

/-- A well-formed Packet from IDLE; noise without a marker; the marker at once from IDLE, and split between the window and
the bytes. -/
theorem witness_ResyncFindsTheEmbeddedFrame :
    (Packet.wf Config.hardware ⟨headerS1 19, hello⟩ = true ∧ State.reset.st = .idle) ∧
    (Resting Config.hardware State.reset = true ∧ [0x55] = State.reset.win.toList ++ [0x55] ∧ NoMarker [0x55]) ∧
    ([0x55, 0xAA] = ([] : List Byte) ++ [0x55, 0xAA] ∧ NoMarker ([] ++ [0x55])) ∧
    (Resting Config.hardware (syncState .sync (some 0x55) [] 0) = true ∧
      [0x55, 0xAA] = (syncState .sync (some 0x55) [] 0).win.toList ++ [0xAA]) :=
  ⟨by decide, ⟨by decide, by decide, fun i h => by simp at h⟩, ⟨by decide, fun i h => by simp at h⟩, by decide⟩

/-- Six bytes declaring 12; the shortest whole frame; the same without its last byte. -/
theorem witness_AttemptConsumesTheDeclaredLength :
    Resting Config.hardware (syncState .primaryHeader none [] 0) = true ∧
    ([0, 0, 0, 0, 0, 12] : List Byte).length = 6 ∧
    (be16 [0, 0, 0, 0, 0, 12] 4).toNat < Config.hardware.minDlen ∧
    Config.hardware.minDlen ≤ (be16 frameC1 4).toNat ∧ frameC1.length = frameLenOf Config.hardware (be16 frameC1 4) ∧
    6 ≤ (frameC1.take 19).length ∧ Config.hardware.minDlen ≤ (be16 (frameC1.take 19) 4).toNat ∧
    (frameC1.take 19).length < frameLenOf Config.hardware (be16 (frameC1.take 19) 4) ∧
    (frameC1.take 6).length = 6 := by decide

/-- A last byte that makes the frame valid, and one that does not. -/
theorem witness_HandedFramesDeserialize :
    Resting Config.hardware (syncState .data none (frameC1.take 19) 13) = true ∧
    (nextOf (feed Config.hardware 0x52 (syncState .data none (frameC1.take 19) 13))).map (fun t => t.out.ev) =
      some (some (.frameValid ⟨frameC1, 20, 0x272F0652, 0x272F0652⟩)) ∧
    (nextOf (feed Config.hardware 0x53 (syncState .data none (frameC1.take 19) 13))).map evPort = some (some 3) := by
  decide +kernel

theorem witness_StTakesOnlyTheListedEdges :
    (∃ t, exec (.syncFeed 0) State.reset = .next t) ∧ (∃ t, exec (.syncExhaust 0) State.reset = .next t) ∧
    (∃ t, exec (.crcInit 0) State.reset = .next t) := ⟨⟨_, rfl⟩, ⟨_, rfl⟩, ⟨_, rfl⟩⟩

/-- One step for each error kind, each on a shortest input that raises it. -/
theorem witness_ErrorsAreRaisedExactlyWhenStated :
    (nextOf (exec (.hdrUnpack 0) (withBytes (bytesH12.take 15)))).map (fun t => t.out.err) = some .truncatedHeader ∧
    (nextOf (exec (.frameDes true 0) (withBytes [0x55]))).map (fun t => t.out.err) = some .syncMismatch ∧
    (nextOf (exec (.frameDes false 0) (withBytes (frameC1.take 19)))).map (fun t => t.out.err) = some .tooShort ∧
    (nextOf (exec (.frameDes false 0) (withBytes (frameC1 ++ [0])))).map (fun t => t.out.err) = some .invalidLength ∧
    (nextOf (exec (.reserved0 0) State.reset)).map (fun t => t.out.err) = some .reservedOp ∧
    (∃ t, pseudoPktNew State.reset = .next t) :=
  ⟨by decide +kernel, by decide +kernel, by decide +kernel, by decide +kernel, by decide +kernel, _, rfl⟩

/-- An operation; and PKT.NEW with a payload that is too long. -/
theorem witness_ErrorsWriteNoRegister :
    (∃ t, exec (.reserved0 0) (syncState .data none frameC1 13) = .next t ∧ t.out.err ≠ .noError) ∧
    (∀ P : List Byte, P.length = 65522 → ∃ t, pseudoPktNew (withBytes P) = .next t ∧ t.out.err ≠ .noError) ∧
    (List.replicate 65522 (0 : Byte)).length = 65522 :=
  ⟨⟨_, rfl, by decide⟩,
    fun P h => ⟨_, if_pos (by simp [withBytes, maxPayload, h]), by simp⟩, List.length_replicate⟩

theorem witness_TenOperationsNeverEndInAnError :
    Instr.isOperation (.syncFeed 0) = true ∧ (∀ x, Instr.syncFeed 0 ≠ .hdrUnpack x) ∧
    (∀ x, Instr.syncFeed 0 ≠ .pktBuild x) ∧ (∀ f x, Instr.syncFeed 0 ≠ .frameDes f x) ∧
    Resting Config.hardware (syncState .data none (frameC1.take 19) 13) = true :=
  ⟨rfl, fun _ => Instr.noConfusion, fun _ => Instr.noConfusion, fun _ _ => Instr.noConfusion, by decide⟩

/-- A step that changes each kind of register. -/
theorem witness_RegistersAreWrittenOnlyByTheirOperations :
    (∃ t, exec (.crcUpdate 0) State.reset = .next t ∧ t.crcAcc ≠ State.reset.crcAcc) ∧
    (∃ t, exec (.seqNext 0) State.reset = .next t ∧ t.seqCnt ≠ State.reset.seqCnt) ∧
    (∃ t, exec (.syncFeed 0) State.reset = .next t ∧ t.st ≠ State.reset.st) :=
  ⟨⟨_, rfl, by decide +kernel⟩, ⟨_, rfl, by decide⟩, ⟨_, rfl, by decide⟩⟩

/-- An operation outside the synchronizer; a mismatch; the marker; a stored byte. -/
theorem witness_FrameBufferIsAppendedOrCleared :
    (∃ t, exec (.seqNext 0) (syncState .data none frameC1 13) = .next t) ∧
    (∃ t, exec (.syncFeed 0) (syncState .sync (some 0) [] 0) = .next t ∧ t.st = .sync) ∧
    (∃ t, exec (.syncFeed 0xAA) (syncState .sync (some 0x55) [] 0) = .next t ∧ t.st = .primaryHeader) ∧
    (∃ t, exec (.syncFeed 0) (syncState .secondaryHeader none (frameC1.take 15) 13) = .next t ∧ t.st ≠ .idle) :=
  ⟨⟨_, rfl⟩, ⟨_, rfl, rfl⟩, ⟨_, rfl, rfl⟩, ⟨_, rfl, by decide⟩⟩

theorem witness_EveryStepKeepsTheRestingTable :
    Resting Config.hardware (issueFirst 0xC55 State.reset) = true ∧
    ∃ t, step (issueFirst 0xC55 State.reset) = .next t := ⟨by decide, _, rfl⟩

theorem witness_EveryStepKeepsTheBufferWithinCapacity :
    Memory.wf Config.hardware (issueFirst 0xC55 (syncState .primaryHeader none [] 0)).fbuf = true ∧
    ∃ t, step (issueFirst 0xC55 (syncState .primaryHeader none [] 0)) = .next t := ⟨by decide, _, rfl⟩

theorem witness_RunsFromRestingStatesNeverStop :
    Resting Config.hardware State.reset = true ∧
    Resting Config.hardware (syncState .data none (frameC1.take 19) 13) = true := by decide

/-- An operation no parameter reaches; a RESET. -/
theorem witness_ParametersReachOnlyTheirOperations :
    ((∀ x, Instr.crcInit 0 ≠ .seqReset x) ∧ (∀ x, Instr.crcInit 0 ≠ .pktBuild x) ∧
      (∀ f x, Instr.crcInit 0 ≠ .frameDes f x) ∧ (∀ b, Instr.crcInit 0 ≠ .syncFeed b)) ∧
    ({ State.reset with program := [.reset] } : State).program = .reset :: [] :=
  ⟨⟨fun _ => Instr.noConfusion, fun _ => Instr.noConfusion, fun _ _ => Instr.noConfusion, fun _ => Instr.noConfusion⟩,
    rfl⟩

/-- At `LEN_ADJ` = 0 the smallest `data_length` is 14: DATA one byte before the end, and a step from it. -/
theorem witness_EveryConfigurationKeepsItsInvariants :
    Resting lenAdj0 (syncState .data none ([0, 0, 0, 0, 0, 14] ++ List.replicate 13 0) 14) = true ∧
    Memory.wf lenAdj0 (syncState .data none ([0, 0, 0, 0, 0, 14] ++ List.replicate 13 0) 14).fbuf = true ∧
    ∃ t, stepUnder lenAdj0 (syncState .data none ([0, 0, 0, 0, 0, 14] ++ List.replicate 13 0) 14) = .next t :=
  ⟨by decide, by decide, _, rfl⟩

theorem witness_RunsUnderEveryConfigurationNeverStop :
    Resting lenAdj0 (State.resetUnder lenAdj0) = true ∧
    Resting lenAdj0 (syncState .data none ([0, 0, 0, 0, 0, 14] ++ List.replicate 13 0) 14) = true := by decide

theorem witness_RoundTripUnderEveryConfiguration :
    (withBytes []).inp.payload.length ≤ 65521 ∧
    (withBytes (List.replicate 65521 0)).inp.payload.length ≤ 65521 :=
  ⟨by decide, Nat.le_of_eq List.length_replicate⟩

/-- One byte too many; and a frame of the other convention. -/
theorem witness_SurplusAndConventionFollowTheParameters :
    (Packet.wf Config.hardware ⟨headerS1 19, hello⟩ = true ∧ ([0] : List Byte) ≠ [] ∧
      (withBytes (serialize ⟨headerS1 19, hello⟩ true ++ [0])).inp.frame =
        serialize ⟨headerS1 19, hello⟩ true ++ [0]) ∧
    (lenAdj0.lenAdj = 0 ∧ Config.hardware.lenAdj = 1 ∧ Packet.wf lenAdj0 ⟨headerS1 20, hello⟩ = true ∧
      (withBytes (serialize ⟨headerS1 20, hello⟩ false)).inp.frame = serialize ⟨headerS1 20, hello⟩ false) :=
  ⟨⟨by decide, by decide, rfl⟩, by decide, by decide, by decide, rfl⟩

end Sys2Proof.Machine.Tests
end

section
/-! The statements of 10_state.md: the reset values (R25), and that every step keeps the table of resting states (R24). The
invariant is proved for a block with any parameters; this hardware is the block at the defaults. -/

namespace Sys2Proof.Machine

/-! ### This hardware is the block at the default parameters -/

theorem exec_eq_execUnder_hardware : exec = execUnder Config.hardware := by
  funext i s
  cases i <;> rfl

theorem step_eq_stepUnder_hardware (s : State) : step s = stepUnder Config.hardware s := by
  rw [step, stepUnder, exec_eq_execUnder_hardware]

/-! ### What the operations outside the synchronizer write -/

theorem buildPacket_writes_only_out {c : Config} {n : BitVec 14} {s t : State} (h : buildPacket c n s = .next t) :
    ∃ o, t = { s with out := o } := by
  rcases buildPacket_cases c n s with ⟨-, e⟩ | ⟨-, e⟩ <;> cases e.symm.trans h <;> exact ⟨_, rfl⟩

theorem deserialize_writes_only_out {c : Config} {f : Bool} {B : List Byte} {s t : State}
    (h : deserialize c f B s = .next t) : ∃ o, t = { s with out := o } := by
  rcases deserialize_cases c f B s with ⟨e, -⟩ | ⟨_, -, e | e | ⟨_, e⟩⟩ <;> cases e.symm.trans h <;> exact ⟨_, rfl⟩

theorem execHdrUnpack_writes_only_out {s t : State} (h : execHdrUnpack s = .next t) :
    ∃ o, t = { s with out := o } := by
  unfold execHdrUnpack at h
  split at h <;> cases h <;> exact ⟨_, rfl⟩

/-- An operation outside the synchronizer writes no register but `CRC_ACC` and `SEQ_CNT` (10_state.md R10, the column
"written by"). -/
theorem execUnder_writes_only_of_not_sync {c : Config} {i : Instr} {s t : State} (hf : ∀ b, i ≠ .syncFeed b)
    (hx : ∀ x, i ≠ .syncExhaust x) (h : execUnder c i s = .next t) :
    ∃ a n o, t = { s with crcAcc := a, seqCnt := n, out := o } := by
  cases i with
  | crcInit _ | crcUpdate _ | crcFinal _ | crcCompute _ | hdrPack _ | seqNext _ | seqReset _ | frameSer _ _
  | reserved0 _ | reservedE _ | reservedF _ =>
    cases h
    exact ⟨_, _, _, rfl⟩
  | hdrUnpack _ =>
    obtain ⟨o, rfl⟩ := execHdrUnpack_writes_only_out h
    exact ⟨_, _, o, rfl⟩
  | pktBuild _ =>
    obtain ⟨o, rfl⟩ := buildPacket_writes_only_out h
    exact ⟨_, _, o, rfl⟩
  | frameDes _ _ =>
    obtain ⟨o, rfl⟩ := deserialize_writes_only_out h
    exact ⟨_, _, o, rfl⟩
  | syncFeed b => exact absurd rfl (hf b)
  | syncExhaust x => exact absurd rfl (hx x)

/-! ### The table of resting states (10_state.md R24) -/

/-- The first row of the table. -/
theorem resting_of_idle {c : Config} {s : State} (hst : s.st = .idle) (hw : s.win = none) (hb : s.fbuf = [])
    (hd : s.dlen = 0) : Resting c s = true :=
  (resting_iff c s).2 (.inl ⟨hst, hw, hb, hd⟩)

theorem resting_resetUnder (c : Config) : Resting c (State.resetUnder c) = true :=
  resting_of_idle (resetUnder_st c) (resetUnder_win c) (resetUnder_fbuf c) (resetUnder_dlen c)

theorem resting_applyReset (c d : Config) (s : State) : Resting c (applyReset d s) = true :=
  resting_of_idle (applyReset_st d s) (applyReset_win d s) (applyReset_fbuf d s) (applyReset_dlen d s)

/-- The cleared synchronizer rests, whatever event is reported. -/
theorem resting_of_emit_clearSync {c : Config} {e : Event} {s t : State} (h : emit e (clearSync s) = .next t) :
    Resting c t = true := by
  cases h
  exact resting_of_idle rfl rfl rfl rfl

/-- `ST` rests in neither of its transient values. -/
theorem st_not_transient_of_resting {c : Config} {s : State} (h : Resting c s = true) :
    s.st ≠ .valid ∧ s.st ≠ .crcError := by
  constructor <;> intro hst <;> simp [Resting, hst] at h

/-- The table reads `ST`, `WIN`, `FBUF` and `DLEN` only. -/
theorem resting_of_same_sync_registers {c : Config} {s t : State} (hst : t.st = s.st) (hw : t.win = s.win)
    (hb : t.fbuf = s.fbuf) (hd : t.dlen = s.dlen) (hs : Resting c s = true) : Resting c t = true := by
  rwa [Resting, hst, hw, hb, hd]

theorem sync_row_of_resting {c : Config} {s : State} (hs : Resting c s = true) (hst : s.st = .sync) :
    s.win.isSome ∧ s.fbuf = [] ∧ s.dlen = 0 := by
  simpa [resting_iff, hst] using hs

theorem primaryHeader_row_of_resting {c : Config} {s : State} (hs : Resting c s = true)
    (hst : s.st = .primaryHeader) : s.win = none ∧ s.fbuf.length ≤ 5 ∧ s.dlen = 0 := by
  simpa [resting_iff, hst] using hs

theorem secondaryHeader_row_of_resting {c : Config} {s : State} (hs : Resting c s = true)
    (hst : s.st = .secondaryHeader) :
    s.win = none ∧ 6 ≤ s.fbuf.length ∧ s.fbuf.length ≤ 15 ∧ s.dlen = be16 s.fbuf 4 ∧
      c.minDlen ≤ s.dlen.toNat := by
  simpa [resting_iff, hst] using hs

theorem data_row_of_resting {c : Config} {s : State} (hs : Resting c s = true) (hst : s.st = .data) :
    s.win = none ∧ 16 ≤ s.fbuf.length ∧ s.fbuf.length + 1 ≤ frameLenOf c s.dlen ∧ s.dlen = be16 s.fbuf 4 ∧
      c.minDlen ≤ s.dlen.toNat := by
  simpa [resting_iff, hst] using hs

/-! ### SYNC.FEED keeps the table, row by row -/

/-- The sixth byte leads to SECONDARY_HEADER with `DLEN` read from the buffer, or back to IDLE. -/
theorem resting_of_takeDataLength {c : Config} {s t : State} (hw : s.win = none) (hlen : s.fbuf.length = priHdrLen)
    (h : takeDataLength c s = .next t) : Resting c t = true := by
  unfold takeDataLength shortLength at h
  split at h
  · split at h
    exact resting_of_emit_clearSync h
  · have hmin : c.minDlen ≤ (be16 s.fbuf 4).toNat := by omega
    cases h
    simp [resting_iff, hw, hlen, hmin, priHdrLen]

/-- A frame whose `data_length` was accepted ends at least four bytes after its header. -/
theorem minFrame_le_frameLenOf {c : Config} {d : BitVec 16} (h : c.minDlen ≤ d.toNat) :
    minFrame ≤ frameLenOf c d := by
  have := c.lenAdj.isLt
  simp only [Config.minDlen, secHdrLen, crcLen] at h
  simp only [minFrame, frameLenOf, priHdrLen]
  omega

/-- An appended byte in PRIMARY_HEADER, not the sixth. -/
theorem resting_of_append_primaryHeader {c : Config} {s : State} (b : Byte) (hs : Resting c s = true)
    (hst : s.st = .primaryHeader) (hl : s.fbuf.length + 1 ≠ priHdrLen) :
    Resting c { s with fbuf := s.fbuf ++ [b] } = true := by
  obtain ⟨hw, hlen, hd⟩ := primaryHeader_row_of_resting hs hst
  have hlen' : s.fbuf.length + 1 ≤ 5 := by simp only [priHdrLen] at hl; omega
  simpa [resting_iff, hst, hw, hd] using hlen'

/-- `data_length` stands in bytes 4 and 5, so an append after them leaves `DLEN` equal to it. -/
theorem dataLength_append {s : State} (b : Byte) (h : 6 ≤ s.fbuf.length) (hd : s.dlen = be16 s.fbuf 4) :
    s.dlen = be16 (s.fbuf ++ [b]) 4 := by
  rw [hd, be16_append_left s.fbuf [b] (by omega)]

/-- An appended byte in SECONDARY_HEADER, not the sixteenth. -/
theorem resting_of_append_secondaryHeader {c : Config} {s : State} (b : Byte) (hs : Resting c s = true)
    (hst : s.st = .secondaryHeader) (hl : s.fbuf.length + 1 ≠ hdrLen) :
    Resting c { s with fbuf := s.fbuf ++ [b] } = true := by
  obtain ⟨hw, hlo, hhi, hd, hmin⟩ := secondaryHeader_row_of_resting hs hst
  have hhi' : s.fbuf.length + 1 ≤ 15 := by simp only [hdrLen] at hl; omega
  have hd' := dataLength_append b hlo hd
  rw [resting_iff]
  refine .inr (.inr (.inr (.inl ⟨hst, hw, ?_, ?_, hd', hmin⟩))) <;> simp <;> omega

/-- The sixteenth byte leads to DATA, and is not the last of the frame. -/
theorem resting_of_last_header_byte {c : Config} {s : State} (b : Byte) (hs : Resting c s = true)
    (hst : s.st = .secondaryHeader) (hl : s.fbuf.length + 1 = hdrLen) :
    Resting c { s with fbuf := s.fbuf ++ [b], st := .data } = true := by
  obtain ⟨hw, hlo, -, hd, hmin⟩ := secondaryHeader_row_of_resting hs hst
  have hframe := minFrame_le_frameLenOf hmin
  have hd' := dataLength_append b hlo hd
  simp only [hdrLen, minFrame] at hl hframe
  rw [resting_iff]
  refine .inr (.inr (.inr (.inr ⟨rfl, hw, ?_, ?_, hd', hmin⟩))) <;> simp <;> omega

/-- An appended byte in DATA, not the last of the frame. -/
theorem resting_of_append_data {c : Config} {s : State} (b : Byte) (hs : Resting c s = true)
    (hst : s.st = .data) (hl : s.fbuf.length + 1 ≠ frameLenOf c s.dlen) :
    Resting c { s with fbuf := s.fbuf ++ [b] } = true := by
  obtain ⟨hw, hlo, hhi, hd, hmin⟩ := data_row_of_resting hs hst
  have hd' := dataLength_append b (by omega) hd
  rw [resting_iff]
  refine .inr (.inr (.inr (.inr ⟨hst, hw, ?_, ?_, hd', hmin⟩))) <;> simp <;> omega

/-- SYNC.FEED keeps the table, in every configuration: along the rows of 43_synchronizer.md R102. -/
theorem feed_keeps_resting {c : Config} {b : Byte} {s t : State} (hs : Resting c s = true)
    (h : feed c b s = .next t) : Resting c t = true := by
  obtain ⟨-, h⟩ | ⟨hst, hw, -⟩ | ⟨hst, -, -, h⟩ | ⟨hst, -, h⟩ | ⟨hst, -, h⟩ | ⟨hst, -, h⟩ | ⟨hst, -, h⟩ :=
    feed_cases h
  · -- IDLE: the byte becomes the window
    cases h
    simp [resting_iff]
  · -- SYNC with an empty window is outside the table
    obtain ⟨hwin, -⟩ := sync_row_of_resting hs hst
    simp [hw] at hwin
  · -- SYNC, the marker is complete
    obtain ⟨-, -, hd⟩ := sync_row_of_resting hs hst
    cases h
    simp [resting_iff, hd]
  · -- SYNC, another byte
    obtain ⟨-, hb, hd⟩ := sync_row_of_resting hs hst
    cases h
    simp [resting_iff, hst, hb, hd]
  · -- PRIMARY_HEADER
    obtain ⟨hl, h⟩ | ⟨hl, h⟩ := h
    · obtain ⟨hw, -⟩ := primaryHeader_row_of_resting hs hst
      exact resting_of_takeDataLength (s := { s with fbuf := s.fbuf ++ [b] }) hw (by simpa using hl) h
    · cases h
      exact resting_of_append_primaryHeader b hs hst hl
  · -- SECONDARY_HEADER
    obtain ⟨hl, h⟩ | ⟨hl, h⟩ := h <;> cases h
    · exact resting_of_last_header_byte b hs hst hl
    · exact resting_of_append_secondaryHeader b hs hst hl
  · -- DATA: complete and cleared, or one more byte
    obtain ⟨-, h⟩ | ⟨hl, h⟩ := h
    · exact resting_of_emit_clearSync h
    · cases h
      exact resting_of_append_data b hs hst hl

/-! ### Every operation and every step keeps the table -/

theorem execUnder_keeps_resting {c : Config} {i : Instr} {s t : State} (hs : Resting c s = true)
    (h : execUnder c i s = .next t) : Resting c t = true := by
  by_cases hf : ∃ b, i = .syncFeed b
  · obtain ⟨b, rfl⟩ := hf
    exact feed_keeps_resting hs h
  by_cases hx : ∃ x, i = .syncExhaust x
  · obtain ⟨x, rfl⟩ := hx
    exact resting_of_emit_clearSync h
  obtain ⟨a, n, o, rfl⟩ := execUnder_writes_only_of_not_sync (not_exists.1 hf) (not_exists.1 hx) h
  exact resting_of_same_sync_registers (s := s) rfl rfl rfl rfl hs

theorem stepUnder_keeps_resting {c : Config} {s t : State} (hs : Resting c s = true)
    (h : stepUnder c s = .next t) : Resting c t = true := by
  obtain ⟨-, e⟩ | ⟨rest, -, e⟩ | ⟨w, ports, rest, -, e⟩ := stepBy_cases (execUnder c) c s
  · cases e.symm.trans h
    exact hs
  · cases e.symm.trans h
    exact resting_applyReset c c _
  · have hs' : Resting c { s with program := rest, inp := ports } = true :=
      resting_of_same_sync_registers (s := s) rfl rfl rfl rfl hs
    exact execUnder_keeps_resting hs' (e.symm.trans h)

/-! ### The statements -/

/-- Settles O4: `State.reset` is the reset state of the block at the default parameters. -/
theorem resetStateHoldsTheResetValues : Obligations.ResetStateHoldsTheResetValues :=
  ⟨resetUnder_st _, resetUnder_win _, resetUnder_fbuf _, resetUnder_dlen _, resetUnder_seqCnt _,
    resetUnder_crcAcc _⟩

/-- Settles O52: the invariant of a block with any parameters, at the defaults. -/
theorem everyStepKeepsTheRestingTable : Obligations.EveryStepKeepsTheRestingTable := by
  refine ⟨⟨resetUnder_st _, resting_resetUnder _⟩, fun s hs => ?_, fun s t hs h => ?_⟩
  · obtain ⟨hvalid, hcrcError⟩ := st_not_transient_of_resting hs
    exact ⟨hvalid, hcrcError, s.seqCnt.isLt⟩
  · exact stepUnder_keeps_resting hs (step_eq_stepUnder_hardware s ▸ h)

end Sys2Proof.Machine
end

section
/-! The statement of 30_encoding.md about the command word (R54): the words by `decodeCmd_append`, the ignored bits by the
canonical form of an operation. -/

namespace Sys2Proof.Machine

/-! ### The canonical form of an operation -/

/-- The operation with the bits of `imm8` that it ignores at their canonical value 0 (30_encoding.md R54). -/
def canonicalForm : Instr → Instr
  | .crcInit _ => .crcInit 0
  | .crcUpdate b => .crcUpdate b
  | .crcFinal _ => .crcFinal 0
  | .crcCompute _ => .crcCompute 0
  | .hdrPack _ => .hdrPack 0
  | .hdrUnpack _ => .hdrUnpack 0
  | .seqNext _ => .seqNext 0
  | .seqReset _ => .seqReset 0
  | .pktBuild _ => .pktBuild 0
  | .frameSer includeSync _ => .frameSer includeSync 0
  | .frameDes expectSync _ => .frameDes expectSync 0
  | .syncFeed b => .syncFeed b
  | .syncExhaust _ => .syncExhaust 0
  | .reserved0 _ => .reserved0 0
  | .reservedE _ => .reservedE 0
  | .reservedF _ => .reservedF 0

/-- The well-formed operations of the model are those in canonical form. -/
theorem wf_iff_eq_canonicalForm (i : Instr) : i.wf = true ↔ i = canonicalForm i := by
  cases i with
  | crcUpdate _ | syncFeed _ => exact iff_of_true rfl rfl
  | crcInit _ | crcFinal _ | crcCompute _ | hdrPack _ | hdrUnpack _ | seqNext _ | seqReset _ | pktBuild _
  | frameSer _ _ | frameDes _ _ | syncExhaust _ | reserved0 _ | reservedE _ | reservedF _ =>
    simp [Instr.wf, Instr.ignoredBits, canonicalForm, BitVec.toNat_eq]

/-- An operation that is not canonical runs, and runs as its canonical form does (92_eei_decisions.md D24). -/
theorem exec_canonicalForm (i : Instr) (s : State) : exec (canonicalForm i) s = exec i s := by
  cases i <;> rfl

theorem exec_eq_of_canonicalForm_eq {i j : Instr} (s : State) (h : canonicalForm i = canonicalForm j) :
    exec i s = exec j s := by
  rw [← exec_canonicalForm i, h, exec_canonicalForm]

/-! ### The statement -/

/-- Settles O7: a word put together from its fields is decoded by its selector, a canonical word is its selector before
its immediate, and operations that differ in ignored bits have the same canonical form. -/
theorem commandWordTable : Obligations.CommandWordTable := by
  refine ⟨fun x => ?words, ?canonical, fun x y u v f s => ?ignored⟩
  case words =>
    exact ⟨decodeCmd_append 0x1 x, decodeCmd_append 0x2 x, decodeCmd_append 0x3 x, decodeCmd_append 0x4 x,
      decodeCmd_append 0x5 x, decodeCmd_append 0x6 x, decodeCmd_append 0x7 x, decodeCmd_append 0x8 x,
      decodeCmd_append 0x9 x, decodeCmd_append 0xA x, decodeCmd_append 0xB x, decodeCmd_append 0xC x,
      decodeCmd_append 0xD x, decodeCmd_append 0x0 x, decodeCmd_append 0xE x, decodeCmd_append 0xF x⟩
  case canonical =>
    refine ⟨?_, ?_, ?_, ?_, ?_, ?_, ?_, ?_, ?_, ?_, ?_, ?_, ?_, fun b => ⟨?_, ?_⟩⟩ <;> rfl
  case ignored =>
    refine ⟨?_, ?_, ?_, ?_, ?_, ?_, ?_, ?_, ?_, ?_, ?_⟩ <;> exact exec_eq_of_canonicalForm_eq s rfl

end Sys2Proof.Machine
end

section
/-! The statements of 40_crc32.md. The byte step is eight iterations of `crcBit`, which is additive for exclusive-or; that
gives the table-driven form (R66). Reversing the bits carries `crcBit` to the shift of the normal form, and with it the whole
CRC (R65). The accumulator is followed through a run one request at a time (R71). -/

namespace Sys2Proof.Machine

/-! ### What each operation of the CRC generator answers -/

theorem exec_crcInit (x : BitVec 8) (s : State) :
    exec (.crcInit x) s = .next { s with crcAcc := crcAllOnes, out := Outputs.quiet } := rfl

theorem exec_crcUpdate (b : Byte) (s : State) :
    exec (.crcUpdate b) s = .next { s with crcAcc := crcStep s.crcAcc b, out := Outputs.quiet } := rfl

theorem exec_crcFinal (x : BitVec 8) (s : State) :
    exec (.crcFinal x) s =
      .next { s with out := { Outputs.quiet with crcOut := some (s.crcAcc ^^^ crcAllOnes) } } := rfl

theorem exec_crcCompute (x : BitVec 8) (s : State) :
    exec (.crcCompute x) s =
      .next { s with out := { Outputs.quiet with crcOut := some (crc32 s.inp.crcBuf) } } := rfl

/-! ### The byte step is additive for exclusive-or -/

/-- What an iteration of `crc_step` adds to the shifted accumulator (40_crc32.md R66). -/
def crcFeedback (a : BitVec 32) : BitVec 32 := if a.getLsbD 0 then crcPolyReflected else 0

theorem crcBit_eq_shift_xor_feedback (a : BitVec 32) : crcBit a = (a >>> 1) ^^^ crcFeedback a := by
  unfold crcBit crcFeedback
  split
  · rfl
  · exact BitVec.xor_zero.symm

theorem crcFeedback_xor (a b : BitVec 32) : crcFeedback (a ^^^ b) = crcFeedback a ^^^ crcFeedback b := by
  unfold crcFeedback
  rw [BitVec.getLsbD_xor]
  cases a.getLsbD 0 <;> cases b.getLsbD 0 <;> simp

theorem crcBit_xor : Function.Semiconj₂ crcBit (· ^^^ ·) (· ^^^ ·) := by
  intro a b
  simp only [crcBit_eq_shift_xor_feedback, crcFeedback_xor, BitVec.ushiftRight_xor_distrib]
  ac_rfl

theorem crcStep_eq_iterate (acc : BitVec 32) (b : Byte) :
    crcStep acc b = crcBit^[8] (acc ^^^ b.setWidth 32) := rfl

/-- Nothing is fed back while the bits shifted out are 0. -/
theorem crcBit_iterate_of_low_zero {n : Nat} {a : BitVec 32} (h : ∀ i < n, a.getLsbD i = false) :
    crcBit^[n] a = a >>> n := by
  induction n with
  | zero => simp
  | succ n ih =>
    have hbit : (a >>> n).getLsbD 0 = false := by simpa using h n (by omega)
    rw [Function.iterate_succ_apply', ih fun i hi => h i (by omega), crcBit, hbit, BitVec.shiftRight_add]
    rfl

theorem high_xor_lowByte (x : BitVec 32) : (x >>> 8 <<< 8) ^^^ (x.extractLsb' 0 8).setWidth 32 = x := by
  ext i hi
  by_cases h : i < 8
  · simp [h, BitVec.getLsbD_eq_getElem hi]
  · simp [h, show 8 + (i - 8) = i by omega, BitVec.getLsbD_eq_getElem hi]

/-- A byte enters the low 8 bits only, so the eight shifts see the upper bits of the accumulator alone. -/
theorem crcBit_iterate_high (acc : BitVec 32) (b : Byte) :
    crcBit^[8] ((acc ^^^ b.setWidth 32) >>> 8 <<< 8) = acc >>> 8 := by
  rw [crcBit_iterate_of_low_zero fun i hi => by simp [hi]]
  ext i hi
  simpa using fun h => BitVec.lt_of_getLsbD h

/-- The table-driven form, with `T[i] = crcStep i 0` (40_crc32.md R66). -/
theorem crcStep_eq_tableDriven (acc : BitVec 32) (b : Byte) :
    crcStep acc b =
      (acc >>> 8) ^^^ crcStep (((acc ^^^ b.setWidth 32).extractLsb' 0 8).setWidth 32) 0 := by
  have hentry (i : BitVec 32) : crcBit^[8] i = crcStep i 0 := by simp [crcStep_eq_iterate]
  calc crcStep acc b
      = crcBit^[8] (((acc ^^^ b.setWidth 32) >>> 8 <<< 8) ^^^
          ((acc ^^^ b.setWidth 32).extractLsb' 0 8).setWidth 32) := by
        rw [high_xor_lowByte, crcStep_eq_iterate]
    _ = _ := by rw [crcBit_xor.iterate 8, crcBit_iterate_high, hentry]

/-! ### Reversed bits: the normal form -/

theorem reverse_xor {w : Nat} (x y : BitVec w) : (x ^^^ y).reverse = x.reverse ^^^ y.reverse := by
  ext i hi
  simp [BitVec.getElem_reverse]

theorem reverse_ushiftRight {w : Nat} (x : BitVec w) (n : Nat) : (x >>> n).reverse = x.reverse <<< n := by
  refine BitVec.eq_of_getMsbD_eq fun i _ => ?_
  simp [BitVec.getMsbD_reverse, Nat.add_comm]

theorem reverse_setWidth {w v : Nat} (x : BitVec w) (h : w ≤ v) :
    (x.setWidth v).reverse = x.reverse.setWidth v <<< (v - w) := by
  refine BitVec.eq_of_getMsbD_eq fun i hi => ?_
  simp [BitVec.getMsbD_reverse, hi, show i + (v - w) + w - v = i by omega]

theorem reverse_crcPolyReflected : crcPolyReflected.reverse = 0x04C11DB7 := by cbv

theorem reverse_crcAllOnes : crcAllOnes.reverse = crcAllOnes := by cbv

theorem reverse_crcBit : Function.Semiconj BitVec.reverse crcBit normalBit := by
  intro a
  have hbit : a.reverse.getLsbD 31 = a.getLsbD 0 := BitVec.getLsbD_reverse
  rw [crcBit, normalBit, hbit]
  split
  · rw [reverse_xor, reverse_ushiftRight, reverse_crcPolyReflected]
  · rw [reverse_ushiftRight]

theorem reverse_crcStep (acc : BitVec 32) (b : Byte) :
    (crcStep acc b).reverse = normalStep acc.reverse b.reverse := by
  rw [crcStep_eq_iterate, reverse_crcBit.iterate_right 8, reverse_xor, reverse_setWidth b (by decide), normalStep]

theorem reverse_crcFold (acc : BitVec 32) (B : List Byte) :
    (crcFold acc B).reverse = (B.map BitVec.reverse).foldl normalStep acc.reverse := by
  induction B generalizing acc with
  | nil => rfl
  | cons b B ih => rw [crcFold, ih, reverse_crcStep, List.map_cons, List.foldl_cons]

theorem crc32_eq_normalCrc32 (B : List Byte) : crc32 B = normalCrc32 B := by
  have h := reverse_crcFold crcAllOnes B
  rw [reverse_crcAllOnes] at h
  rw [crc32, ← BitVec.reverse_reverse_eq (x := crcFold crcAllOnes B), h]
  rfl

/-! ### CRC.STREAM -/

theorem execAll_map_crcUpdate (s : State) (a : BitVec 32) (B : List Byte) :
    execAll (B.map .crcUpdate) { s with crcAcc := a, out := Outputs.quiet } =
      .next { s with crcAcc := crcFold a B, out := Outputs.quiet } := by
  induction B generalizing a with
  | nil => rfl
  | cons b B ih => exact ih (crcStep a b)

theorem execAll_pseudoCrcStream (s : State) (B : List Byte) :
    execAll (pseudoCrcStream B) s =
      .next { s with
        crcAcc := crcFold crcAllOnes B
        out := { Outputs.quiet with crcOut := some (crc32 B) } } := by
  rw [pseudoCrcStream, execAll_append, execAll_append]
  simp only [execAll, exec_crcInit, execAll_map_crcUpdate, exec_crcFinal]
  rfl

/-! ### What the other operations leave unchanged -/

theorem takeDataLength_keeps_outside_sync {c : Config} {s t : State} (h : takeDataLength c s = .next t) :
    t.crcAcc = s.crcAcc ∧ t.seqCnt = s.seqCnt ∧ SameCaller s t := by
  unfold takeDataLength shortLength at h
  split at h
  · split at h
    cases h
    exact ⟨rfl, rfl, rfl, rfl⟩
  · cases h
    exact ⟨rfl, rfl, rfl, rfl⟩

/-- SYNC.FEED writes the synchronizer's registers only: along the rows of 43_synchronizer.md R102. -/
theorem feed_keeps_outside_sync {c : Config} {b : Byte} {s t : State} (h : feed c b s = .next t) :
    t.crcAcc = s.crcAcc ∧ t.seqCnt = s.seqCnt ∧ SameCaller s t := by
  obtain ⟨-, h⟩ | ⟨-, -, h⟩ | ⟨-, -, -, h⟩ | ⟨-, -, h⟩ | ⟨-, -, ⟨-, h⟩ | ⟨-, h⟩⟩ | ⟨-, -, ⟨-, h⟩ | ⟨-, h⟩⟩ |
    ⟨-, -, ⟨-, h⟩ | ⟨-, h⟩⟩ := feed_cases h
  case inr.inr.inr.inr.inl.inl => exact takeDataLength_keeps_outside_sync (s := { s with fbuf := s.fbuf ++ [b] }) h
  all_goals
    cases h
    exact ⟨rfl, rfl, rfl, rfl⟩

theorem execUnder_keeps_caller {c : Config} {i : Instr} {s t : State} (h : execUnder c i s = .next t) :
    SameCaller s t := by
  by_cases hf : ∃ b, i = .syncFeed b
  · obtain ⟨b, rfl⟩ := hf
    obtain ⟨-, -, hcaller⟩ := feed_keeps_outside_sync h
    exact hcaller
  by_cases hx : ∃ x, i = .syncExhaust x
  · obtain ⟨x, rfl⟩ := hx
    cases h
    exact ⟨rfl, rfl⟩
  obtain ⟨a, n, o, rfl⟩ := execUnder_writes_only_of_not_sync (not_exists.1 hf) (not_exists.1 hx) h
  exact ⟨rfl, rfl⟩

/-- `CRC_ACC` is written by CRC.INIT and CRC.UPDATE alone (10_state.md R10). -/
theorem execUnder_keeps_crcAcc {c : Config} {i : Instr} {s t : State} (hinit : ∀ x, i ≠ .crcInit x)
    (hupdate : ∀ b, i ≠ .crcUpdate b) (h : execUnder c i s = .next t) : t.crcAcc = s.crcAcc := by
  cases i with
  | crcInit x => exact absurd rfl (hinit x)
  | crcUpdate b => exact absurd rfl (hupdate b)
  | crcFinal _ | crcCompute _ | hdrPack _ | seqNext _ | seqReset _ | frameSer _ _ | syncExhaust _
  | reserved0 _ | reservedE _ | reservedF _ =>
    cases h
    rfl
  | hdrUnpack _ =>
    obtain ⟨o, rfl⟩ := execHdrUnpack_writes_only_out h
    rfl
  | pktBuild _ =>
    obtain ⟨o, rfl⟩ := buildPacket_writes_only_out h
    rfl
  | frameDes _ _ =>
    obtain ⟨o, rfl⟩ := deserialize_writes_only_out h
    rfl
  | syncFeed _ =>
    obtain ⟨hacc, -⟩ := feed_keeps_outside_sync h
    exact hacc

/-! ### The accumulator along a run -/

/-- The bytes of the CRC stream after one operation, when they were `P` before it (40_crc32.md R71). -/
def streamAfter (P : List Byte) : Instr → List Byte
  | .crcInit _ => []
  | .crcUpdate b => P ++ [b]
  | _ => P

theorem streamBytes_command (P : List Byte) (w : CmdWord) (ports : Inputs) (rs : List Request) :
    streamBytes P (.command w ports :: rs) = streamBytes (streamAfter P (decodeCmd w)) rs := by
  rw [streamBytes]
  cases decodeCmd w <;> rfl

theorem crcFold_concat (a : BitVec 32) (P : List Byte) (b : Byte) :
    crcFold a (P ++ [b]) = crcStep (crcFold a P) b := crcFold_append P [b] a

theorem exec_folds_stream {i : Instr} {s t : State} {P : List Byte} (hs : s.crcAcc = crcFold crcAllOnes P)
    (h : exec i s = .next t) : t.crcAcc = crcFold crcAllOnes (streamAfter P i) := by
  by_cases hinit : ∃ x, i = .crcInit x
  · obtain ⟨x, rfl⟩ := hinit
    cases h
    rfl
  by_cases hupdate : ∃ b, i = .crcUpdate b
  · obtain ⟨b, rfl⟩ := hupdate
    cases h
    rw [streamAfter, crcFold_concat, ← hs]
  have hP : streamAfter P i = P := by
    rw [streamAfter]
    · exact not_exists.1 hinit
    · exact not_exists.1 hupdate
  rw [exec_eq_execUnder_hardware] at h
  rw [hP, ← hs, execUnder_keeps_crcAcc (not_exists.1 hinit) (not_exists.1 hupdate) h]

/-- One request taken: the accumulator is the fold of the stream after it, and the other requests remain. -/
theorem step_folds_stream {s t : State} {P : List Byte} {r : Request} {rs : List Request}
    (hp : s.program = r :: rs) (hs : s.crcAcc = crcFold crcAllOnes P) (h : step s = .next t) :
    t.program = rs ∧ ∃ Q, t.crcAcc = crcFold crcAllOnes Q ∧ streamBytes P (r :: rs) = streamBytes Q rs := by
  obtain ⟨hnil, -⟩ | ⟨rest, hcons, e⟩ | ⟨w, ports, rest, hcons, e⟩ := stepBy_cases exec Config.hardware s
  · cases hp.symm.trans hnil
  · cases hp.symm.trans hcons
    cases e.symm.trans h
    exact ⟨rfl, [], rfl, rfl⟩
  · cases hp.symm.trans hcons
    have hexec := e.symm.trans h
    obtain ⟨-, hprogram⟩ := execUnder_keeps_caller (exec_eq_execUnder_hardware ▸ hexec)
    exact ⟨hprogram, _, exec_folds_stream (s := { s with program := rs, inp := ports }) hs hexec,
       streamBytes_command P w ports rs⟩

theorem run_succ_next {M : Host.Core} {k : Nat} {s t : M.State} (h : M.run (k + 1) s = .next t) :
    ∃ u, M.step s = .next u ∧ M.run k u = .next t := by
  rw [Host.Core.run] at h
  split at h
  next u hu => exact ⟨u, hu, h⟩
  all_goals cases h

theorem run_folds_stream (rs : List Request) {s t : State} {P : List Byte} (hp : s.program = rs)
    (hs : s.crcAcc = crcFold crcAllOnes P) (h : Host.Core.run Sys2Proof.core rs.length s = .next t) :
    t.crcAcc = crcFold crcAllOnes (streamBytes P rs) := by
  induction rs generalizing s P with
  | nil =>
    cases h
    exact hs
  | cons r rs ih =>
    obtain ⟨u, hstep, hrun⟩ := run_succ_next h
    obtain ⟨hprogram, Q, hQ, hstream⟩ := step_folds_stream hp hs hstep
    rw [hstream]
    exact ih hprogram hQ hrun

/-! ### The printed values -/

theorem crcStep_printed_values :
    crcStep 0xFFFFFFFF 0x00 = 0x2DFD1072 ∧ crcStep 0xFFFFFFFF 0x61 = 0x174841BC := by decide

theorem crc32_checkValue : crc32 [0x31, 0x32, 0x33, 0x34, 0x35, 0x36, 0x37, 0x38, 0x39] = 0xCBF43926 := by cbv

/-! ### The statements -/

/-- Settles O16: the rule and the fold are the definitions; the table-driven form is `crcStep_eq_tableDriven`. -/
theorem crcStepIsBitSerialAndTableDriven : Obligations.CrcStepIsBitSerialAndTableDriven :=
  ⟨crcStep_eq_iterate, fun _ => rfl, fun _ => rfl, fun _ _ _ => rfl, crcStep_eq_tableDriven, by decide, by decide,
    by decide, by decide, by decide⟩

/-- Settles O17: reversing the bits carries the reflected form to the normal form. -/
theorem crcIsTheStandardCrc : Obligations.CrcIsTheStandardCrc :=
  ⟨crc32_eq_normalCrc32, BitVec.reverse_reverse_eq.symm.trans (congrArg BitVec.reverse reverse_crcPolyReflected),
    crc32_checkValue, by cbv⟩

/-- Settles O18: the stream byte by byte, and a run request by request. -/
theorem crcStreamEqualsCompute : Obligations.CrcStreamEqualsCompute :=
  ⟨fun B x _ => ⟨_, _, execAll_pseudoCrcStream _ B, rfl, exec_crcCompute x _, rfl⟩,
    fun _ _ _ hs h => run_folds_stream _ rfl hs h⟩

/-- Settles O12: after CRC.INIT the accumulator is its own mask, so CRC.FINAL gives 0. -/
theorem crcInitLoadsAllOnes : Obligations.CrcInitLoadsAllOnes := by
  refine ⟨decodeCmd_append 0x1, rfl, fun x y s => ⟨exec_crcInit x s, ?_⟩⟩
  rw [exec_crcFinal, crcAllOnes, BitVec.xor_self]
  rfl

/-- Settles O13. -/
theorem crcUpdateStepsTheAccumulator : Obligations.CrcUpdateStepsTheAccumulator :=
  ⟨decodeCmd_append 0x2, exec_crcUpdate, crcStep_printed_values⟩

/-- Settles O14: CRC.FINAL leaves the accumulator, so the byte after it extends the same fold. -/
theorem crcFinalReadsTheComplement : Obligations.CrcFinalReadsTheComplement := by
  refine ⟨decodeCmd_append 0x3, rfl, exec_crcFinal, fun x y b P s hs => ?_, by decide, by decide⟩
  have hlonger : crcStep s.crcAcc b = crcFold crcAllOnes (P ++ [b]) := by rw [crcFold_concat, hs]; rfl
  refine ⟨_, _, _, exec_crcFinal x s, ?_, exec_crcUpdate b _, exec_crcFinal y _, ?_⟩
  · exact congrArg (fun a => some (a ^^^ crcAllOnes)) hs
  · exact congrArg (fun a => some (a ^^^ crcAllOnes)) hlonger

/-- Settles O15: the order of the bytes counts already for two of them. -/
theorem crcComputeTouchesNoRegister : Obligations.CrcComputeTouchesNoRegister :=
  ⟨decodeCmd_append 0x4, rfl, exec_crcCompute, rfl, by decide, crc32_checkValue,
    [0, 1], [1, 0], List.Perm.swap 1 0 [], by cbv⟩

end Sys2Proof.Machine
end

section
/-! The statements of 41_header.md. A packed header is the big-endian bytes of the header's 128-bit number (30_encoding.md
R48), written group by group; reading the groups back and joining their fields gives the two inverses (R77). The counter is
followed through `n` operations by induction. -/

namespace Sys2Proof.Machine

/-! ### What each operation answers -/

theorem exec_hdrPack (x : BitVec 8) (s : State) :
    exec (.hdrPack x) s = .next { s with out := { Outputs.quiet with hdrBytes := some (packHeader s.inp.hdr) } } := rfl

theorem exec_hdrUnpack_of_short (x : BitVec 8) {s : State} (h : s.inp.hdrBytes.length < 16) :
    exec (.hdrUnpack x) s = .next { s with out := { Outputs.quiet with
      err := .truncatedHeader, errInfo := some s.inp.hdrBytes.length } } := if_pos h

theorem exec_hdrUnpack_of_long (x : BitVec 8) {s : State} (h : 16 ≤ s.inp.hdrBytes.length) :
    exec (.hdrUnpack x) s =
      .next { s with out := { Outputs.quiet with hdr := some (unpackHeader s.inp.hdrBytes) } } :=
  if_neg (Nat.not_lt.mpr h)

theorem exec_seqNext (x : BitVec 8) (s : State) :
    exec (.seqNext x) s =
      .next { s with seqCnt := s.seqCnt + 1, out := { Outputs.quiet with seqOut := some s.seqCnt } } := rfl

theorem exec_seqReset (x : BitVec 8) (s : State) :
    exec (.seqReset x) s = .next { s with seqCnt := 0, out := Outputs.quiet } := rfl

/-! ### The big-endian bytes of a number of any width -/

/-- The low `n` bytes of a number, most significant byte first (00_scope.md section 7.2). -/
def beBytes {w : Nat} (n : Nat) (v : BitVec w) : List Byte :=
  (List.range n).map fun i => v.extractLsb' (8 * (n - 1 - i)) 8

theorem beBytes_one (b : Byte) : beBytes 1 b = [b] := congrArg (fun x => [x]) BitVec.extractLsb'_eq_self

theorem beBytes_two (v : BitVec 16) : beBytes 2 v = toBe16 v := rfl

theorem beBytes_four (v : BitVec 32) : beBytes 4 v = toBe32 v := rfl

theorem beBytes_six (v : BitVec 48) : beBytes 6 v = toBe48 v := rfl

theorem beBytes_headerValue (h : Header) :
    beBytes 16 (headerValue h) = (List.range 16).map (headerValueByte (headerValue h)) := rfl

/-- The bytes of a concatenation whose low part is `m` whole bytes. -/
theorem beBytes_append {w u : Nat} (n m : Nat) (a : BitVec w) (b : BitVec u) (hu : u = 8 * m) :
    beBytes (n + m) (a ++ b) = beBytes n a ++ beBytes m b := by
  simp only [beBytes, List.range_add, List.map_append, List.map_map]
  refine congrArg₂ (· ++ ·) (List.map_congr_left fun i hi => ?high) (List.map_congr_left fun i hi => ?low)
  case high =>
    rw [List.mem_range] at hi
    rw [Laws.extract_inside_high a b (by omega), show 8 * (n + m - 1 - i) - u = 8 * (n - 1 - i) by omega]
  case low =>
    rw [List.mem_range] at hi
    rw [Function.comp_apply, show n + m - 1 - (n + i) = m - 1 - i by omega,
      Laws.extract_inside_low a b (by omega)]

/-! ### The two header words are their fields side by side (30_encoding.md R47) -/

theorem headerWord0_eq_append (h : Header) :
    headerWord0 h = h.version ++ h.packetType ++ h.secondaryHeaderFlag ++ h.apid := by
  rw [← BitVec.setWidth_eq (h.version ++ h.packetType ++ h.secondaryHeaderFlag ++ h.apid)]
  simp only [BitVec.setWidth_append_eq_shiftLeft_setWidth_or, BitVec.shiftLeft_or_distrib,
    ← BitVec.shiftLeft_add]
  rfl

theorem headerWord1_eq_append (h : Header) : headerWord1 h = h.sequenceFlags ++ h.sequenceCount := by
  rw [← BitVec.setWidth_eq (h.sequenceFlags ++ h.sequenceCount),
    BitVec.setWidth_append_eq_shiftLeft_setWidth_or, headerWord1]

/-- The 128-bit number, its fields joined into the groups that are packed. -/
theorem headerValue_eq_groups (h : Header) :
    headerValue h = headerWord0 h ++ headerWord1 h ++ h.dataLength ++ h.timingInfo ++ h.segmentNumber ++
      h.functionCode ++ h.addressCode := by
  rw [headerWord0_eq_append, headerWord1_eq_append, BitVec.append_assoc']
  rfl

theorem packHeader_eq_beBytes (h : Header) : packHeader h = beBytes 16 (headerValue h) := by
  rw [headerValue_eq_groups, beBytes_append 14 2 _ h.addressCode rfl, beBytes_append 13 1 _ h.functionCode rfl,
    beBytes_append 12 1 _ h.segmentNumber rfl, beBytes_append 6 6 _ h.timingInfo rfl,
    beBytes_append 4 2 _ h.dataLength rfl, beBytes_append 2 2 _ (headerWord1 h) rfl]
  simp only [beBytes_one, beBytes_two, beBytes_six]
  rfl

/-! ### Unpacking what was packed -/

theorem be48_toBe48 (v : BitVec 48) : be48 (toBe48 v) 0 = v := by
  have hhigh : be16 (toBe48 v) 0 = v.extractLsb' 32 16 := BitVec.extractLsb'_append_extractLsb'_eq_extractLsb' rfl
  have hmid : be16 (toBe48 v) 2 = v.extractLsb' 16 16 := BitVec.extractLsb'_append_extractLsb'_eq_extractLsb' rfl
  have hlow : be16 (toBe48 v) 4 = v.extractLsb' 0 16 := BitVec.extractLsb'_append_extractLsb'_eq_extractLsb' rfl
  rw [be48, be32, hhigh, hmid, hlow, BitVec.extractLsb'_append_extractLsb'_eq_extractLsb' (len₁ := 16) rfl]
  exact Laws.append_extract (n := 16) (m := 32) v

/-- The fields of the first word (30_encoding.md R47). -/
theorem headerWord0_fields (h : Header) :
    (headerWord0 h).extractLsb' 13 3 = h.version ∧ (headerWord0 h).extractLsb' 12 1 = h.packetType ∧
      (headerWord0 h).extractLsb' 11 1 = h.secondaryHeaderFlag ∧ (headerWord0 h).extractLsb' 0 11 = h.apid := by
  rw [headerWord0_eq_append]
  refine ⟨?version, ?packetType, ?secondaryHeaderFlag, Laws.extract_low _ _⟩ <;>
    rw [Laws.extract_inside_high _ h.apid (by omega)]
  case version =>
    rw [Laws.extract_inside_high _ h.secondaryHeaderFlag (by omega)]
    exact Laws.extract_high _ _
  case packetType =>
    rw [Laws.extract_inside_high _ h.secondaryHeaderFlag (by omega)]
    exact Laws.extract_low _ _
  case secondaryHeaderFlag => exact Laws.extract_low _ _

/-- The fields of the second word (30_encoding.md R47). -/
theorem headerWord1_fields (h : Header) :
    (headerWord1 h).extractLsb' 14 2 = h.sequenceFlags ∧ (headerWord1 h).extractLsb' 0 14 = h.sequenceCount := by
  rw [headerWord1_eq_append]
  exact ⟨Laws.extract_high _ _, Laws.extract_low _ _⟩

theorem unpackHeader_packHeader (h : Header) : unpackHeader (packHeader h) = h := by
  have hword0 : be16 (packHeader h) 0 = headerWord0 h := Laws.append_extract (n := 8) (m := 8) _
  have hword1 : be16 (packHeader h) 2 = headerWord1 h := Laws.append_extract (n := 8) (m := 8) _
  have hdataLength : be16 (packHeader h) 4 = h.dataLength := be16_toBe16 h.dataLength
  have hmove : be48 (packHeader h) 6 = be48 (toBe48 h.timingInfo) 0 := rfl
  have haddressCode : be16 (packHeader h) 14 = h.addressCode := be16_toBe16 h.addressCode
  obtain ⟨hversion, hpacketType, hsecondaryHeaderFlag, hapid⟩ := headerWord0_fields h
  obtain ⟨hsequenceFlags, hsequenceCount⟩ := headerWord1_fields h
  rw [unpackHeader, hword0, hword1, hdataLength, hmove, be48_toBe48, haddressCode, hversion, hpacketType,
    hsecondaryHeaderFlag, hapid, hsequenceFlags, hsequenceCount]
  rfl

/-! ### Packing what was unpacked -/

theorem headerWord0_unpackHeader (B : List Byte) : headerWord0 (unpackHeader B) = be16 B 0 := by
  rw [headerWord0_eq_append]
  simp only [unpackHeader]
  rw [BitVec.extractLsb'_append_extractLsb'_eq_extractLsb' (len₁ := 1) rfl,
    BitVec.extractLsb'_append_extractLsb'_eq_extractLsb' (len₁ := 1) rfl]
  exact Laws.append_extract (n := 5) (m := 11) (be16 B 0)

theorem headerWord1_unpackHeader (B : List Byte) : headerWord1 (unpackHeader B) = be16 B 2 :=
  (headerWord1_eq_append _).trans (Laws.append_extract (n := 2) (m := 14) (be16 B 2))

theorem toBe32_be32 (B : List Byte) (i : Nat) :
    toBe32 (be32 B i) = [byteAt B i, byteAt B (i + 1), byteAt B (i + 2), byteAt B (i + 3)] := by
  rw [← beBytes_four, be32, beBytes_append 2 2 _ (be16 B (i + 2)) rfl]
  simp only [beBytes_two, toBe16_be16]
  rfl

theorem toBe48_be48 (B : List Byte) (i : Nat) :
    toBe48 (be48 B i) =
      [byteAt B i, byteAt B (i + 1), byteAt B (i + 2), byteAt B (i + 3), byteAt B (i + 4), byteAt B (i + 5)] := by
  rw [← beBytes_six, be48, beBytes_append 2 4 _ (be32 B (i + 2)) rfl]
  simp only [beBytes_two, beBytes_four, toBe16_be16, toBe32_be32]
  rfl

theorem take_eq_map_byteAt {B : List Byte} {n : Nat} (h : n ≤ B.length) :
    B.take n = (List.range n).map (byteAt B) := by
  refine List.ext_getElem (by simp [h]) fun i hi _ => ?_
  have hB : i < B.length := by simp at hi; omega
  simp [byteAt, hB]

theorem packHeader_unpackHeader {B : List Byte} (h : 16 ≤ B.length) :
    packHeader (unpackHeader B) = B.take 16 := by
  have hdataLength : toBe16 (unpackHeader B).dataLength = _ := toBe16_be16 B 4
  have htimingInfo : toBe48 (unpackHeader B).timingInfo = _ := toBe48_be48 B 6
  have haddressCode : toBe16 (unpackHeader B).addressCode = _ := toBe16_be16 B 14
  rw [packHeader, headerWord0_unpackHeader, headerWord1_unpackHeader, toBe16_be16, toBe16_be16, hdataLength,
    htimingInfo, haddressCode, take_eq_map_byteAt h]
  rfl

/-! ### The counter -/

/-- The carry out of bit 13 is dropped (41_header.md R78). -/
theorem seqCnt_succ_eq (n : BitVec 14) : n + 1 = BitVec.ofNat 14 ((n.toNat + 1) % 0x4000) := by
  apply BitVec.eq_of_toNat_eq
  simp

theorem execAll_replicate_seqNext (x : BitVec 8) (n : Nat) (s : State) :
    ∃ t, execAll (List.replicate n (.seqNext x)) s = .next t ∧ t.seqCnt.toNat = (s.seqCnt.toNat + n) % 0x4000 := by
  induction n generalizing s with
  | zero => exact ⟨s, rfl, (Nat.mod_eq_of_lt s.seqCnt.isLt).symm⟩
  | succ n ih =>
    obtain ⟨t, hrun, hcount⟩ :=
      ih { s with seqCnt := s.seqCnt + 1, out := { Outputs.quiet with seqOut := some s.seqCnt } }
    refine ⟨t, hrun, hcount.trans ?_⟩
    simp [Nat.add_assoc, Nat.add_comm 1 n]

/-! ### The statements -/

/-- Settles O21: a packed header has sixteen bytes, so it is unpacked; of sixteen bytes, packing gives
back all. -/
theorem hdrPackAndUnpackAreInverse : Obligations.HdrPackAndUnpackAreInverse := by
  refine ⟨fun x y s => ?unpackOfPack, fun x y s hlen => ?packOfUnpack⟩
  case unpackOfPack =>
    exact ⟨_, _, _, exec_hdrPack x s, rfl, packHeader_length _,
      exec_hdrUnpack_of_long y (packHeader_length _).ge, congrArg some (unpackHeader_packHeader _)⟩
  case packOfUnpack =>
    refine ⟨_, _, _, exec_hdrUnpack_of_long y hlen.ge, rfl, exec_hdrPack x _, congrArg some ?_⟩
    rw [packHeader_unpackHeader hlen.ge, List.take_of_length_le hlen.le]

/-- Settles O19: the packed bytes are those of the 128-bit number. -/
theorem hdrPackFollowsTheBitTable : Obligations.HdrPackFollowsTheBitTable := by
  refine ⟨decodeCmd_append 0x5, rfl, fun x s => ?_⟩
  rw [exec_hdrPack, packHeader_eq_beBytes, beBytes_headerValue]

/-- Settles O20: the header that is read packs to the first sixteen bytes, which are those of its 128-bit number. -/
theorem hdrUnpackFollowsTheBitTable : Obligations.HdrUnpackFollowsTheBitTable := by
  refine ⟨decodeCmd_append 0x6, rfl, fun x _ h => exec_hdrUnpack_of_short x h,
    fun x _ h => ⟨_, exec_hdrUnpack_of_long x h, ?_⟩, rfl⟩
  rw [← packHeader_unpackHeader h, packHeader_eq_beBytes, beBytes_headerValue]

/-- Settles O22: one operation adds 1, and `n` of them add `n`, modulo 0x4000. -/
theorem seqNextReturnsThenIncrements : Obligations.SeqNextReturnsThenIncrements := by
  refine ⟨decodeCmd_append 0x7, rfl, fun x s => ?one, fun n s => ?many⟩
  case one => rw [exec_seqNext, seqCnt_succ_eq]
  case many =>
    obtain ⟨t, hrun, hcount⟩ := execAll_replicate_seqNext 0 n s
    exact ⟨t, _, t.seqCnt, hrun, hcount, exec_seqNext 0 t, rfl, hcount⟩

/-- Settles O23. -/
theorem seqResetLoadsSeqInit : Obligations.SeqResetLoadsSeqInit :=
  ⟨decodeCmd_append 0x8, rfl, exec_seqReset, fun _ _ => rfl⟩

end Sys2Proof.Machine
end

section
/-! The statements of 42_codec.md on each operation alone: what construction answers below and above the size limit
(R86, R90), where header, payload and trailer stand in a serialized frame (R87), and the five steps of FRAME.DES with
their integer conditions read as conditions on natural numbers (R88). -/

namespace Sys2Proof.Machine

/-! ### PKT.BUILD: the masked field, the computed length, and the size test -/

theorem exec_pktBuild (x : BitVec 8) (s : State) :
    exec (.pktBuild x) s = buildPacket Config.hardware s.inp.hdr.sequenceCount s := rfl

theorem maskApid_toNat (v : BitVec 16) : (maskApid v).toNat = v.toNat % 0x800 := by
  have hmask : (v &&& 0x7FF).toNat = v.toNat % 2 ^ 11 := Nat.and_two_pow_sub_one_eq_mod v.toNat 11
  rw [maskApid, BitVec.toNat_setWidth, hmask, Nat.mod_mod]
  rfl

/-- Up to the size limit the length fits its sixteen bits, under both values of `LEN_ADJ` (30_encoding.md R51). -/
theorem builtDataLength_toNat (c : Config) {n : Nat} (h : n ≤ 65521) :
    (builtDataLength c n).toNat + c.lenAdj.val = 10 + n + 4 := by
  have hadj := c.lenAdj.isLt
  rw [builtDataLength, BitVec.toNat_ofNat, secHdrLen, crcLen, Nat.mod_eq_of_lt (by omega)]
  omega

theorem buildPacket_of_long (c : Config) (n : BitVec 14) {s : State} (h : 65521 < s.inp.payload.length) :
    buildPacket c n s = .next { s with out := { Outputs.quiet with
      err := .payloadTooLarge, errInfo := some s.inp.payload.length } } := if_pos h

theorem buildPacket_of_fits (c : Config) (n : BitVec 14) {s : State} (h : s.inp.payload.length ≤ 65521) :
    buildPacket c n s = .next { s with out := { Outputs.quiet with
      hdr := some (builtPacket c s.inp n).header, payload := some s.inp.payload } } := if_neg (Nat.not_lt.mpr h)

/-! ### PKT.NEW -/

theorem pseudoPktNew_of_long {s : State} (h : 65521 < s.inp.payload.length) :
    pseudoPktNew s = .next { s with out := { Outputs.quiet with
      err := .payloadTooLarge, errInfo := some s.inp.payload.length } } := if_pos h

/-- A construction that fits is PKT.BUILD with the count, after SEQ.NEXT has run. -/
theorem pseudoPktNew_of_fits {s t : State} (h : s.inp.payload.length ≤ 65521) (hseq : execSeqNext s = .next t) :
    pseudoPktNew s = buildPacket Config.hardware s.seqCnt t := by
  have hsize : ¬ maxPayload < s.inp.payload.length := Nat.not_lt.mpr h
  rw [pseudoPktNew, newPacket, if_neg hsize, hseq]

/-! ### FRAME.SER: the parts of a frame -/

theorem exec_frameSer (f : Bool) (x : BitVec 7) (s : State) :
    exec (.frameSer f x) s = .next { s with out := { Outputs.quiet with
      frame := some (serialize (portPacket s.inp) f)
      frameLen := some (serialize (portPacket s.inp) f).length } } := rfl

theorem serialize_eq_append (p : Packet) (f : Bool) :
    serialize p f = (if f then [0x55, 0xAA] else []) ++ frameOf p := by
  cases f <;> rfl

theorem serialize_length (p : Packet) (f : Bool) :
    (serialize p f).length = 20 + p.payload.length + (if f then 2 else 0) := by
  rw [serialize_eq_append, List.length_append, frameOf_length, Nat.add_comm]
  cases f <;> rfl

theorem be32_toBe32 (v : BitVec 32) : be32 (toBe32 v) 0 = v := by
  have hhigh : be16 (toBe32 v) 0 = v.extractLsb' 16 16 := BitVec.extractLsb'_append_extractLsb'_eq_extractLsb' rfl
  have hlow : be16 (toBe32 v) 2 = v.extractLsb' 0 16 := BitVec.extractLsb'_append_extractLsb'_eq_extractLsb' rfl
  rw [be32, hhigh, hlow]
  exact Laws.append_extract (n := 16) (m := 16) v

theorem frameOf_take_header (p : Packet) : (frameOf p).take 16 = packHeader p.header := by
  rw [frameOf, List.append_assoc, List.take_left' (packHeader_length _)]

theorem frameOf_payload (p : Packet) : ((frameOf p).drop 16).take p.payload.length = p.payload := by
  rw [frameOf, List.append_assoc, List.drop_left' (packHeader_length _), List.take_left]

/-- The header and the payload of a Packet end where the CRC trailer of its frame starts. -/
theorem packHeader_append_payload_length (p : Packet) :
    (packHeader p.header ++ p.payload).length = 16 + p.payload.length := by
  rw [List.length_append, packHeader_length]

theorem frameOf_take_before_trailer (p : Packet) :
    (frameOf p).take (16 + p.payload.length) = packHeader p.header ++ p.payload :=
  List.take_left' (packHeader_append_payload_length p)

theorem be32_frameOf_trailer (p : Packet) :
    be32 (frameOf p) (16 + p.payload.length) = crc32 (packHeader p.header ++ p.payload) := by
  rw [frameOf, ← packHeader_append_payload_length, be32_append_right _ _ le_rfl, Nat.sub_self, be32_toBe32]

/-! ### FRAME.DES: each step with its condition -/

theorem exec_frameDes (f : Bool) (x : BitVec 7) (s : State) :
    exec (.frameDes f x) s = deserialize Config.hardware f s.inp.frame s := rfl

/-- Step 1 gives nothing exactly where the marker is asked for and is not in the first two bytes. -/
theorem afterMarker_eq_none {f : Bool} {B : List Byte}
    (h : f = true ∧ ¬ (B[0]? = some 0x55 ∧ B[1]? = some 0xAA)) : afterMarker f B = none := by
  obtain ⟨rfl, hmarker⟩ := h
  match B with
  | [] => rfl
  | [_] => rfl
  | m0 :: m1 :: R =>
    have hbytes : ¬ (m0 = sync0 ∧ m1 = sync1) := fun ⟨h0, h1⟩ => hmarker ⟨congrArg some h0, congrArg some h1⟩
    exact if_neg hbytes

theorem afterMarker_eq_some {f : Bool} {B : List Byte}
    (h : ¬ (f = true ∧ ¬ (B[0]? = some 0x55 ∧ B[1]? = some 0xAA))) :
    afterMarker f B = some (if f then B.drop 2 else B) := by
  cases f with
  | false => rfl
  | true =>
    obtain ⟨h0, h1⟩ : B[0]? = some 0x55 ∧ B[1]? = some 0xAA := by simpa using h
    match B with
    | [] => exact absurd h0 (by simp)
    | [_] => exact absurd h1 (by simp)
    | m0 :: m1 :: R =>
      have hbytes : m0 = sync0 ∧ m1 = sync1 := ⟨Option.some.inj h0, Option.some.inj h1⟩
      exact if_pos hbytes

/-- `payload_len` read from the first sixteen bytes is `data_length + LEN_ADJ - 14` (42_codec.md R88 step 3). -/
theorem declaredPayloadLen_unpackHeader (c : Config) {R : List Byte} (h : 20 ≤ R.length) :
    declaredPayloadLen c (unpackHeader (R.take hdrLen)) = ((be16 R 4).toNat + c.lenAdj.val : Nat) - (14 : Int) := by
  have hread : be16 (R.take hdrLen) 4 = be16 R 4 := by
    rw [← be16_append_left (R.take hdrLen) (R.drop hdrLen) (by simp [hdrLen]; omega), List.take_append_drop]
  simp only [declaredPayloadLen, unpackHeader, hread, secHdrLen, crcLen]
  omega

/-- Step 3 for `m = data_length + LEN_ADJ`, as one test on natural numbers: the declared payload of `m - 14` bytes is
negative, does not fit, or leaves bytes over that the policy refuses. -/
theorem checkLength_eq (c : Config) (R : List Byte) (m : Nat) (s : State) :
    checkLength c R ((m : Int) - 14) s =
      if m < 14 ∨ R.length < m + 6 ∨ (m + 6 < R.length ∧ c.surplusPolicy = .invalidLength) then
        raiseError .invalidLength none s
      else finish (decodedFrame R (m - 14)) s := by
  have hnegative : (m : Int) - 14 < 0 ↔ m < 14 := by omega
  have hshort : (R.length : Int) < hdrLen + ((m : Int) - 14) + crcLen ↔ R.length < m + 6 := by
    simp only [hdrLen, crcLen]; omega
  have hsurplus : hdrLen + ((m : Int) - 14) + crcLen < (R.length : Int) ↔ m + 6 < R.length := by
    simp only [hdrLen, crcLen]; omega
  have hlength : ((m : Int) - 14).toNat = m - 14 := by omega
  simp only [checkLength, hnegative, hshort, hsurplus, hlength, ite_or]

/-- Steps 4 and 5 for `m = data_length + LEN_ADJ`: header and payload end, and the trailer starts, at byte `m + 2`. -/
theorem decodedFrame_eq (R : List Byte) {m : Nat} (h : 14 ≤ m) :
    decodedFrame R (m - 14) = { Outputs.quiet with
      hdr := some (unpackHeader (R.take 16))
      payload := some ((R.drop 16).take (m - 14))
      crcValid := some (decide (crc32 (R.take (m + 2)) = be32 R (m + 2)))
      crcRx := some (be32 R (m + 2))
      crcCalc := some (crc32 (R.take (m + 2))) } := by
  have htrailer : hdrLen + (m - 14) = m + 2 := by simp only [hdrLen]; omega
  rw [decodedFrame, htrailer]
  rfl

theorem deserialize_of_no_marker (c : Config) {f : Bool} {B : List Byte} (s : State) (h : afterMarker f B = none) :
    deserialize c f B s = raiseError .syncMismatch none s := by
  rw [deserialize, h]

theorem deserialize_of_short (c : Config) {f : Bool} {B R : List Byte} (s : State) (h : afterMarker f B = some R)
    (hshort : R.length < 20) : deserialize c f B s = raiseError .tooShort (some R.length) s := by
  rw [deserialize, h]
  exact if_pos hshort

theorem deserialize_of_minFrame (c : Config) {f : Bool} {B R : List Byte} (s : State) (h : afterMarker f B = some R)
    (hlen : 20 ≤ R.length) :
    deserialize c f B s = checkLength c R (((be16 R 4).toNat + c.lenAdj.val : Nat) - (14 : Int)) s := by
  rw [deserialize, h, ← declaredPayloadLen_unpackHeader c hlen]
  exact if_neg (Nat.not_lt.mpr hlen)

/-! ### The statements -/

/-- Settles O24: a payload that fits is built, and its length fits sixteen bits. -/
theorem pktBuildComputesDataLength : Obligations.PktBuildComputesDataLength := by
  refine ⟨decodeCmd_append 0x9, rfl, exec_pktBuild, fun c n _ h => buildPacket_of_long c n h,
    fun c n s h => ⟨_, buildPacket_of_fits c n h, ?_⟩, rfl⟩
  exact ⟨rfl, rfl, rfl, maskApid_toNat _, rfl, rfl, builtDataLength_toNat c h, rfl, rfl, rfl, rfl⟩

/-- Settles O34: SEQ.NEXT leaves the ports, so PKT.BUILD after it finds the same payload. -/
theorem pktNewUsesTheCounter : Obligations.PktNewUsesTheCounter := by
  refine ⟨fun _ h => pseudoPktNew_of_long h, fun s h => ?_⟩
  have hnew := pseudoPktNew_of_fits h (exec_seqNext 0 s)
  refine ⟨(builtPacket Config.hardware s.inp s.seqCnt).header, _, exec_seqNext 0 s, rfl,
    BitVec.toNat_add _ _, rfl, hnew.symm, hnew.trans (buildPacket_of_fits Config.hardware s.seqCnt h)⟩

/-- Settles O26: the frame without its marker is the frame of the Packet on the ports. -/
theorem frameSerEmitsTheWireFormat : Obligations.FrameSerEmitsTheWireFormat := by
  refine ⟨decodeCmd_append 0xA, fun f x s => ⟨frameOf (portPacket s.inp), ?_, frameOf_length _, ?_,
    frameOf_payload (portPacket s.inp), ?_⟩⟩
  · rw [exec_frameSer, serialize_length, serialize_eq_append]
    rfl
  · rw [frameOf_take_header, packHeader_eq_beBytes, beBytes_headerValue]
    rfl
  · have htrailer := be32_frameOf_trailer (portPacket s.inp)
    rwa [← frameOf_take_before_trailer] at htrailer

/-- Settles O28: the steps in their order, each entered where the conditions of those before it fail. -/
theorem frameDesFollowsItsFiveSteps : Obligations.FrameDesFollowsItsFiveSteps := by
  refine ⟨decodeCmd_append 0xB, exec_frameDes, ⟨rfl, rfl, rfl⟩, fun c f B R d s hR hd => ?_⟩
  subst hd
  split
  next hmarker => exact deserialize_of_no_marker c s (afterMarker_eq_none hmarker)
  next hmarker =>
    have hafter : afterMarker f B = some R := hR ▸ afterMarker_eq_some hmarker
    split
    next hshort => exact deserialize_of_short c s hafter hshort
    next hlen =>
      rw [deserialize_of_minFrame c s hafter (Nat.not_lt.mp hlen), checkLength_eq]
      simp only [Nat.add_right_comm _ _ c.lenAdj.val]
      split
      next => rfl
      next hok =>
        rw [decodedFrame_eq R (by omega)]
        rfl

end Sys2Proof.Machine
end

section
/-! The statements of 43_synchronizer.md. One equation per row of the transition table of SYNC.FEED (R96 to R102) carries
all of them. Two invariants are followed along the bytes of a feed: the search, in which `WIN` is the last byte of a
sequence without a marker (R105), and the attempt, in which `FBUF` is the bytes after the marker (R106). A completed
buffer is read off its bytes alone, as FRAME.DES reads it (R107). -/

namespace Sys2Proof.Machine

/-! ### The rows of SYNC.FEED, for every configuration -/

theorem exec_syncFeed (b : Byte) (s : State) : exec (.syncFeed b) s = feed Config.hardware b s := rfl

theorem exec_syncExhaust (x : BitVec 8) (s : State) : exec (.syncExhaust x) s = emit .noEvent (clearSync s) := rfl

theorem feed_idle (c : Config) (b : Byte) {s : State} (hst : s.st = .idle) :
    feed c b s = emit .noEvent { s with fbuf := [], win := some b, dlen := 0, st := .sync } := by
  rw [feed, hst]
  rfl

theorem feed_sync (c : Config) (b : Byte) {w : Byte} {s : State} (hst : s.st = .sync) (hw : s.win = some w) :
    feed c b s =
      if w = 0x55 ∧ b = 0xAA then emit .noEvent { s with win := none, fbuf := [], st := .primaryHeader }
      else emit .syncMismatch { s with win := some b } := by
  have hrow : feed c b s = feedSync b s := by rw [feed, hst]
  rw [hrow, feedSync, hw]
  rfl

theorem shortLength_eq (c : Config) (s : State) : shortLength c s = emit .invalidLength (clearSync s) := by
  unfold shortLength
  split
  rfl

/-- `FBUF_CAP` is at least 65541, under both values of `LEN_ADJ`. -/
theorem fbufCap_ge (c : Config) : 65541 ≤ c.fbufCap := by
  simp only [Config.fbufCap, priHdrLen]
  omega

theorem frameLenOf_le_fbufCap (c : Config) (d : BitVec 16) : frameLenOf c d ≤ c.fbufCap := by
  have := d.isLt
  simp only [frameLenOf, Config.fbufCap]
  omega

theorem feed_primaryHeader (c : Config) (b : Byte) {s : State} (hst : s.st = .primaryHeader)
    (hlen : s.fbuf.length ≤ 5) :
    feed c b s =
      if (s.fbuf ++ [b]).length = 6 then
        if (be16 (s.fbuf ++ [b]) 4).toNat < c.minDlen then emit .invalidLength (clearSync s)
        else emit .noEvent
          { s with fbuf := s.fbuf ++ [b], dlen := be16 (s.fbuf ++ [b]) 4, st := .secondaryHeader }
      else emit .noEvent { s with fbuf := s.fbuf ++ [b] } := by
  have hcap := fbufCap_ge c
  have hrow : feed c b s = feedPrimaryHeader c b s := by rw [feed, hst]
  rw [hrow, feedPrimaryHeader, appendThen_of_room (by omega), takeDataLength, shortLength_eq]
  rfl

theorem feed_secondaryHeader (c : Config) (b : Byte) {s : State} (hst : s.st = .secondaryHeader)
    (hlen : s.fbuf.length ≤ 15) :
    feed c b s = emit .noEvent { s with
      fbuf := s.fbuf ++ [b]
      st := if s.fbuf.length + 1 = 16 then .data else .secondaryHeader } := by
  have hcap := fbufCap_ge c
  have hrow : feed c b s = feedSecondaryHeader c b s := by rw [feed, hst]
  rw [hrow, feedSecondaryHeader, appendThen_of_room (by omega), List.length_append, List.length_singleton, hdrLen]
  split
  · rfl
  · exact congrArg (fun st => emit .noEvent { s with fbuf := s.fbuf ++ [b], st := st }) hst

theorem feed_data (c : Config) (b : Byte) {s : State} (hst : s.st = .data)
    (hlen : s.fbuf.length < frameLenOf c s.dlen) :
    feed c b s =
      if (s.fbuf ++ [b]).length = frameLenOf c s.dlen then
        emit (frameEvent c s.dlen (s.fbuf ++ [b])) (clearSync s)
      else emit .noEvent { s with fbuf := s.fbuf ++ [b] } := by
  have hrow : feed c b s = feedData c b s := by rw [feed, hst]
  rw [hrow, feedData, appendThen_of_room (hlen.trans_le (frameLenOf_le_fbufCap c s.dlen))]
  rfl

/-- SYNC.FEED is total over the table of 10_state.md R24: in each row it ends with an event, and the event of a
completed buffer comes in DATA only, at the last declared byte (43_synchronizer.md R102). -/
theorem feed_emits_of_resting {c : Config} {s : State} (b : Byte) (hs : Resting c s = true) :
    ∃ e u, feed c b s = emit e u ∧
      ((e = .noEvent ∨ e = .syncMismatch ∨ e = .invalidLength) ∨
        (s.st = .data ∧ (s.fbuf ++ [b]).length = frameLenOf c s.dlen ∧ e = frameEvent c s.dlen (s.fbuf ++ [b]))) := by
  obtain ⟨hst, -⟩ | ⟨hst, hw, -⟩ | ⟨hst, -, hlen, -⟩ | ⟨hst, -, -, hlen, -⟩ | ⟨hst, -, -, hlen, -⟩ :=
    (resting_iff c s).1 hs
  · exact ⟨_, _, feed_idle c b hst, .inl (.inl rfl)⟩
  · obtain ⟨w, hw⟩ := Option.isSome_iff_exists.1 hw
    rw [feed_sync c b hst hw]
    split
    · exact ⟨_, _, rfl, .inl (.inl rfl)⟩
    · exact ⟨_, _, rfl, .inl (.inr (.inl rfl))⟩
  · rw [feed_primaryHeader c b hst hlen]
    split
    · split
      · exact ⟨_, _, rfl, .inl (.inr (.inr rfl))⟩
      · exact ⟨_, _, rfl, .inl (.inl rfl)⟩
    · exact ⟨_, _, rfl, .inl (.inl rfl)⟩
  · exact ⟨_, _, feed_secondaryHeader c b hst hlen, .inl (.inl rfl)⟩
  · rw [feed_data c b hst hlen]
    split
    next hlast => exact ⟨_, _, rfl, .inr ⟨hst, hlast, rfl⟩⟩
    next => exact ⟨_, _, rfl, .inl (.inl rfl)⟩

theorem fbuf_length_lt_fbufCap_of_resting {c : Config} {s : State} (hs : Resting c s = true) :
    s.fbuf.length < c.fbufCap := by
  have hcap := fbufCap_ge c
  obtain ⟨-, -, hb, -⟩ | ⟨-, -, hb, -⟩ | ⟨-, -, hlen, -⟩ | ⟨-, -, -, hlen, -⟩ | ⟨-, -, -, hlen, -⟩ :=
    (resting_iff c s).1 hs
  · rw [hb, List.length_nil]
    omega
  · rw [hb, List.length_nil]
    omega
  · omega
  · omega
  · exact hlen.trans (frameLenOf_le_fbufCap c s.dlen)

/-! ### SYNC.FEEDN: bytes and chunks in order -/

theorem feedAll_cons_of_event {c : Config} {b : Byte} {B : List Byte} {s t u : State} {e : Event} {es : List Event}
    (h : feed c b s = .next t) (he : t.out.ev = some e) (hB : feedAll c B t = .next (u, es)) :
    feedAll c (b :: B) s = .next (u, e :: es) := by
  rw [feedAll_cons h hB, he]
  rfl

theorem feedAll_singleton {c : Config} {b : Byte} {s t : State} {e : Event} (h : feed c b s = .next t)
    (he : t.out.ev = some e) : feedAll c [b] s = .next (t, [e]) :=
  feedAll_cons_of_event h he rfl

/-- A feed of several bytes that completes has fed the first one and then the others. -/
theorem feedAll_cons_next {c : Config} {b : Byte} {B : List Byte} {s u : State} {es : List Event}
    (h : feedAll c (b :: B) s = .next (u, es)) :
    ∃ t fs, feed c b s = .next t ∧ feedAll c B t = .next (u, fs) ∧ es = t.out.ev.toList ++ fs := by
  rw [feedAll] at h
  split at h
  next t ht =>
    split at h
    next v fs hv =>
      cases h
      exact ⟨t, fs, ht, hv, rfl⟩
    all_goals cases h
  all_goals cases h

theorem feedAll_append {c : Config} {A B : List Byte} {s t u : State} {es fs : List Event}
    (hA : feedAll c A s = .next (t, es)) (hB : feedAll c B t = .next (u, fs)) :
    feedAll c (A ++ B) s = .next (u, es ++ fs) := by
  induction A generalizing s es with
  | nil =>
    cases hA
    exact hB
  | cons a A ih =>
    obtain ⟨v, gs, ha, hrest, rfl⟩ := feedAll_cons_next hA
    rw [List.append_assoc]
    exact feedAll_cons ha (ih hrest)

theorem feedAll_of_resting {c : Config} (B : List Byte) {s : State} (hs : Resting c s = true) :
    ∃ t es, feedAll c B s = .next (t, es) ∧ es.length = B.length ∧ Resting c t = true := by
  induction B generalizing s with
  | nil => exact ⟨s, [], rfl, rfl, hs⟩
  | cons b B ih =>
    obtain ⟨e, v, hfeed, -⟩ := feed_emits_of_resting b hs
    obtain ⟨u, es, hrun, hlen, hu⟩ := ih (feed_keeps_resting hs hfeed)
    exact ⟨u, e :: es, feedAll_cons_of_event hfeed rfl hrun, congrArg (· + 1) hlen, hu⟩

/-! ### What a completed buffer hands over (43_synchronizer.md R100, R101) -/

/-- What is handed over with the bytes `m`, read off `m` alone. -/
def handedFrame (m : List Byte) : HandedFrame :=
  { frm := m
    frmLen := BitVec.ofNat 17 m.length
    crcRx := be32 m (m.length - 4)
    crcCalc := crc32 (m.take (m.length - 4)) }

theorem handOver_eq_handedFrame {c : Config} {d : BitVec 16} {m : List Byte} (h : m.length = frameLenOf c d) :
    handOver c d m = handedFrame m := by
  rw [handOver, ← h]
  rfl

theorem verdict_eq_valid_iff {c : Config} {d : BitVec 16} {m : List Byte} (h : m.length = frameLenOf c d) :
    verdict c d m = .valid ↔ (handedFrame m).crcCalc = (handedFrame m).crcRx := by
  rw [verdict, ← h, ite_eq_left_iff]
  exact ⟨fun hv => by_contra fun hne => SyncState.noConfusion (hv hne), fun heq hne => absurd heq hne⟩

theorem frameEvent_eq {c : Config} {d : BitVec 16} {m : List Byte} (h : m.length = frameLenOf c d) :
    frameEvent c d m =
      if (handedFrame m).crcCalc = (handedFrame m).crcRx then .frameValid (handedFrame m)
      else .frameCrcError (handedFrame m) := by
  simp only [frameEvent, verdict_eq_valid_iff h, handOver_eq_handedFrame h]

/-- Port `frm_len` is wide enough for the longest frame. -/
theorem handedFrame_frmLen {c : Config} {d : BitVec 16} {m : List Byte} (h : m.length = frameLenOf c d) :
    (handedFrame m).frmLen.toNat = m.length := by
  have hd := d.isLt
  have hadj := c.lenAdj.isLt
  simp only [frameLenOf, priHdrLen] at h
  simp only [handedFrame, BitVec.toNat_ofNat]
  omega

/-! ### The attempt: `FBUF` is the bytes since the marker (43_synchronizer.md R106) -/

/-- After the marker and the bytes `A`, the attempt goes on. -/
structure Attempting (c : Config) (A : List Byte) (s : State) : Prop where
  resting : Resting c s = true
  st : s.st = .primaryHeader ∨ s.st = .secondaryHeader ∨ s.st = .data
  fbuf : s.fbuf = A

/-- The bytes `A` after the marker do not end an attempt: once they declare a length, it is accepted and not reached. -/
def Unfinished (c : Config) (A : List Byte) : Prop :=
  6 ≤ A.length → c.minDlen ≤ (be16 A 4).toNat ∧ A.length < frameLenOf c (be16 A 4)

theorem unfinished_of_append {c : Config} {A B : List Byte} (h : Unfinished c (A ++ B)) : Unfinished c A := by
  intro hA
  obtain ⟨hmin, hlen⟩ := h (by rw [List.length_append]; omega)
  rw [be16_append_left A B (by omega)] at hmin hlen
  rw [List.length_append] at hlen
  exact ⟨hmin, by omega⟩

theorem Attempting.primaryHeader {c : Config} {A : List Byte} {s : State} (h : Attempting c A s)
    (hlen : A.length ≤ 5) : s.st = .primaryHeader := by
  obtain ⟨hs, hst | hst | hst, rfl⟩ := h
  · exact hst
  · obtain ⟨-, hlo, -⟩ := secondaryHeader_row_of_resting hs hst
    omega
  · obtain ⟨-, hlo, -⟩ := data_row_of_resting hs hst
    omega

theorem Attempting.data {c : Config} {A : List Byte} {s : State} (h : Attempting c A s) (hlen : 16 ≤ A.length) :
    s.st = .data := by
  obtain ⟨hs, hst | hst | hst, rfl⟩ := h
  · obtain ⟨-, hhi, -⟩ := primaryHeader_row_of_resting hs hst
    omega
  · obtain ⟨-, -, hhi, -⟩ := secondaryHeader_row_of_resting hs hst
    omega
  · exact hst

theorem Attempting.dlen {c : Config} {A : List Byte} {s : State} (h : Attempting c A s) (hlen : 6 ≤ A.length) :
    s.dlen = be16 A 4 := by
  obtain ⟨hs, hst | hst | hst, rfl⟩ := h
  · obtain ⟨-, hhi, -⟩ := primaryHeader_row_of_resting hs hst
    omega
  · obtain ⟨-, -, -, hd, -⟩ := secondaryHeader_row_of_resting hs hst
    exact hd
  · obtain ⟨-, -, -, hd, -⟩ := data_row_of_resting hs hst
    exact hd

/-- A byte that does not end the attempt is appended, and nothing is reported. -/
theorem feed_of_unfinished {c : Config} {A : List Byte} {b : Byte} {s : State} (h : Attempting c A s)
    (hu : Unfinished c (A ++ [b])) :
    ∃ t, feed c b s = .next t ∧ t.out.ev = some .noEvent ∧ Attempting c (A ++ [b]) t := by
  obtain ⟨hs, hst, rfl⟩ := h
  suffices hstep : ∃ u, feed c b s = emit .noEvent u ∧ u.fbuf = s.fbuf ++ [b] ∧
      (u.st = .primaryHeader ∨ u.st = .secondaryHeader ∨ u.st = .data) by
    obtain ⟨u, hfeed, hbuf, hu⟩ := hstep
    exact ⟨_, hfeed, rfl, feed_keeps_resting hs hfeed, hu, hbuf⟩
  obtain hst | hst | hst := hst
  · obtain ⟨-, hlen, -⟩ := primaryHeader_row_of_resting hs hst
    rw [feed_primaryHeader c b hst hlen]
    split
    next hsix =>
      obtain ⟨hmin, -⟩ := hu hsix.ge
      rw [if_neg (Nat.not_lt.mpr hmin)]
      exact ⟨_, rfl, rfl, .inr (.inl rfl)⟩
    next => exact ⟨_, rfl, rfl, .inl hst⟩
  · obtain ⟨-, -, hlen, -⟩ := secondaryHeader_row_of_resting hs hst
    refine ⟨_, feed_secondaryHeader c b hst hlen, rfl, .inr ?_⟩
    dsimp only
    split
    · exact .inr rfl
    · exact .inl rfl
  · obtain ⟨-, hlo, hlen, hd, -⟩ := data_row_of_resting hs hst
    obtain ⟨-, hshort⟩ := hu (by rw [List.length_append]; omega)
    rw [← dataLength_append b (by omega) hd] at hshort
    rw [feed_data c b hst hlen, if_neg hshort.ne]
    exact ⟨_, rfl, rfl, .inr (.inr hst)⟩

theorem feedAll_of_unfinished {c : Config} {A : List Byte} (B : List Byte) {s : State} (h : Attempting c A s)
    (hu : Unfinished c (A ++ B)) :
    ∃ t, feedAll c B s = .next (t, List.replicate B.length .noEvent) ∧ Attempting c (A ++ B) t := by
  induction B generalizing A s with
  | nil => exact ⟨s, rfl, by rwa [List.append_nil]⟩
  | cons b B ih =>
    rw [List.append_cons] at hu ⊢
    obtain ⟨t, hfeed, hev, ht⟩ := feed_of_unfinished h (unfinished_of_append hu)
    obtain ⟨u, hrun, hend⟩ := ih ht hu
    exact ⟨u, feedAll_cons_of_event hfeed hev hrun, hend⟩

/-- The sixth byte abandons the attempt where the declared length is too short (43_synchronizer.md R109). -/
theorem feed_of_short_length {c : Config} {A : List Byte} {b : Byte} {s : State} (h : Attempting c A s)
    (hlen : A.length = 5) (hd : (be16 (A ++ [b]) 4).toNat < c.minDlen) :
    feed c b s = emit .invalidLength (clearSync s) := by
  have hst := h.primaryHeader hlen.le
  obtain ⟨-, -, rfl⟩ := h
  rw [feed_primaryHeader c b hst hlen.le, if_pos (by rw [List.length_append, hlen]; rfl), if_pos hd]

/-- The last declared byte completes the attempt (43_synchronizer.md R100). -/
theorem feed_of_last_byte {c : Config} {A : List Byte} {b : Byte} {s : State} (h : Attempting c A s)
    (hmin : 16 ≤ A.length) (hlen : (A ++ [b]).length = frameLenOf c (be16 A 4)) :
    feed c b s = emit (frameEvent c (be16 A 4) (A ++ [b])) (clearSync s) := by
  have hst := h.data hmin
  have hd := h.dlen (by omega)
  obtain ⟨-, -, rfl⟩ := h
  rw [← hd] at hlen ⊢
  rw [feed_data c b hst (by rw [List.length_append, List.length_singleton] at hlen; omega), if_pos hlen]

/-- Just after the marker an attempt goes on with no byte yet. -/
theorem attempting_nil {c : Config} {s : State} (hs : Resting c s = true) (hst : s.st = .primaryHeader)
    (hb : s.fbuf = []) : Attempting c [] s := ⟨hs, .inl hst, hb⟩

theorem feedAll_abandoned {c : Config} {B : List Byte} {s : State} (h : Attempting c [] s) (hlen : B.length = 6)
    (hd : (be16 B 4).toNat < c.minDlen) :
    ∃ t, feedAll c B s = .next (t, List.replicate 5 .noEvent ++ [.invalidLength]) ∧ t.st = .idle := by
  obtain rfl | ⟨A, b, rfl⟩ := B.eq_nil_or_concat'
  · cases hlen
  have hA : A.length = 5 := by simpa using hlen
  obtain ⟨t, hrun, ht⟩ := feedAll_of_unfinished A h (fun h6 => by simp [hA] at h6)
  have hlast := feedAll_singleton (feed_of_short_length ht hA hd) rfl
  rw [hA] at hrun
  exact ⟨_, feedAll_append hrun hlast, rfl⟩

/-- Exactly the declared number of bytes completes the attempt, and is reported once, at the last byte. -/
theorem feedAll_whole_frame {c : Config} {B : List Byte} {s : State} (h : Attempting c [] s)
    (hmin : c.minDlen ≤ (be16 B 4).toNat) (hlen : B.length = frameLenOf c (be16 B 4)) :
    ∃ t, feedAll c B s =
        .next (t, List.replicate (B.length - 1) .noEvent ++ [frameEvent c (be16 B 4) B]) ∧ t.st = .idle := by
  have hframe : 20 ≤ B.length := (minFrame_le_frameLenOf hmin).trans_eq hlen.symm
  obtain rfl | ⟨A, b, rfl⟩ := B.eq_nil_or_concat'
  · simp at hframe
  have hA : (A ++ [b]).length = A.length + 1 := List.length_append
  rw [be16_append_left A [b] (by omega)] at hmin hlen ⊢
  obtain ⟨t, hrun, ht⟩ := feedAll_of_unfinished A h (fun _ => ⟨hmin, by simp only [List.nil_append]; omega⟩)
  have hlast := feedAll_singleton (feed_of_last_byte ht (by simp only [List.nil_append]; omega) hlen) rfl
  rw [hA, Nat.add_sub_cancel]
  exact ⟨_, feedAll_append hrun hlast, rfl⟩

/-! ### The search: `WIN` is the last byte of a sequence without a marker (43_synchronizer.md R105) -/

/-- Of the bytes `S`, none of which completed a marker, the last is in the window. -/
structure Searching (c : Config) (S : List Byte) (s : State) : Prop where
  resting : Resting c s = true
  st : s.st = .idle ∨ s.st = .sync
  win : s.win = S.getLast?

theorem searching_window {c : Config} {s : State} (hs : Resting c s = true) (hst : s.st = .idle ∨ s.st = .sync) :
    Searching c s.win.toList s :=
  ⟨hs, hst, by cases s.win <;> rfl⟩

/-- With a byte in the window the machine is in SYNC. -/
theorem Searching.sync_of_window {c : Config} {S : List Byte} {w : Byte} {s : State} (h : Searching c S s)
    (hw : s.win = some w) : s.st = .sync := by
  obtain ⟨hs, hst | hst, -⟩ := h
  · simp [resting_iff, hst, hw] at hs
  · exact hst

theorem noMarker_of_append {A B : List Byte} (h : NoMarker (A ++ B)) : NoMarker A := fun i ⟨h0, h1⟩ =>
  h i ⟨List.getElem?_append_left (List.getElem?_eq_some_iff.1 h0).1 ▸ h0,
    List.getElem?_append_left (List.getElem?_eq_some_iff.1 h1).1 ▸ h1⟩

/-- The last byte of a sequence without a marker and the byte after it are no marker. -/
theorem not_marker_of_noMarker {S : List Byte} {w b : Byte} (hw : S.getLast? = some w)
    (h : NoMarker (S ++ [b])) : ¬ (w = 0x55 ∧ b = 0xAA) := by
  rintro ⟨rfl, rfl⟩
  obtain ⟨A, rfl⟩ := List.getLast?_eq_some_iff.1 hw
  exact h A.length (by simp)

theorem feed_of_noMarker {c : Config} {S : List Byte} {b : Byte} {s : State} (h : Searching c S s)
    (hno : NoMarker (S ++ [b])) : ∃ t, feed c b s = .next t ∧ Searching c (S ++ [b]) t := by
  obtain ⟨hs, hst | hst, hw⟩ := h
  · have hfeed := feed_idle c b hst
    exact ⟨_, hfeed, feed_keeps_resting hs hfeed, .inr rfl, by simp⟩
  · obtain ⟨hsome, -⟩ := sync_row_of_resting hs hst
    obtain ⟨w, hwin⟩ := Option.isSome_iff_exists.1 hsome
    have hfeed := feed_sync c b hst hwin
    rw [if_neg (not_marker_of_noMarker (hw.symm.trans hwin) hno)] at hfeed
    exact ⟨_, hfeed, feed_keeps_resting hs hfeed, .inr hst, by simp⟩

theorem feedAll_of_noMarker {c : Config} {S : List Byte} (X : List Byte) {s : State} (h : Searching c S s)
    (hno : NoMarker (S ++ X)) : ∃ t es, feedAll c X s = .next (t, es) ∧ Searching c (S ++ X) t := by
  induction X generalizing S s with
  | nil => exact ⟨s, [], rfl, by rwa [List.append_nil]⟩
  | cons b X ih =>
    rw [List.append_cons] at hno ⊢
    obtain ⟨t, hfeed, ht⟩ := feed_of_noMarker h (noMarker_of_append hno)
    obtain ⟨u, es, hrun, hu⟩ := ih ht hno
    exact ⟨u, _, feedAll_cons hfeed hrun, hu⟩

/-- The second marker byte right after the first enters PRIMARY_HEADER with nothing buffered. -/
theorem feed_of_marker {c : Config} {A : List Byte} {s : State} (h : Searching c (A ++ [0x55]) s) :
    ∃ t, feed c 0xAA s = .next t ∧ t.st = .primaryHeader ∧ t.win = none ∧ t.fbuf = [] ∧ t.dlen = 0 := by
  have hw : s.win = some 0x55 := by simp [h.win]
  have hst := h.sync_of_window hw
  obtain ⟨-, -, hd⟩ := sync_row_of_resting h.resting hst
  exact ⟨_, feed_sync c 0xAA hst hw, rfl, rfl, rfl, hd⟩

/-- Bytes of which only the last completes a marker end in PRIMARY_HEADER. -/
theorem feedAll_of_first_marker {c : Config} {A X : List Byte} {s : State} (h : Searching c s.win.toList s)
    (hS : A ++ [0x55, 0xAA] = s.win.toList ++ X) (hno : NoMarker (A ++ [0x55])) :
    ∃ t es, feedAll c X s = .next (t, es) ∧ t.st = .primaryHeader ∧ t.win = none ∧ t.fbuf = [] ∧ t.dlen = 0 := by
  obtain rfl | ⟨Y, b, rfl⟩ := X.eq_nil_or_concat'
  · have hlen := congrArg List.length hS
    have hwin : s.win.toList.length ≤ 1 := by cases s.win <;> simp
    simp only [List.length_append, List.length_cons, List.length_nil] at hlen
    omega
  rw [List.append_cons, ← List.append_assoc, List.append_singleton_inj] at hS
  obtain ⟨hS, rfl⟩ := hS
  rw [hS] at hno
  obtain ⟨t, es, hrun, ht⟩ := feedAll_of_noMarker Y h hno
  obtain ⟨u, hfeed, hu⟩ := feed_of_marker (A := A) (hS ▸ ht)
  exact ⟨u, _, feedAll_append hrun (feedAll_cons hfeed rfl), hu⟩

/-! ### An embedded frame -/

/-- Two bytes that are no marker and then the marker, from IDLE. -/
theorem feedAll_garbage_marker (c : Config) {s : State} (hst : s.st = .idle) :
    ∃ t, feedAll c [0x00, 0x11, 0x55, 0xAA] s =
        .next (t, [.noEvent, .syncMismatch, .syncMismatch, .noEvent]) ∧ Attempting c [] t := by
  cases s
  cases hst
  exact ⟨_, rfl, attempting_nil (by simp [resting_iff]) rfl rfl⟩

theorem be16_frameOf (p : Packet) : be16 (frameOf p) 4 = p.header.dataLength := by
  rw [frameOf, List.append_assoc, be16_append_left _ _ (by rw [packHeader_length]; omega)]
  exact be16_toBe16 p.header.dataLength

/-- The frame of a well-formed Packet declares an accepted length, which is its own (30_encoding.md R50, R61). -/
theorem frameOf_declares_length {c : Config} {p : Packet} (h : Packet.wf c p = true) :
    c.minDlen ≤ (be16 (frameOf p) 4).toNat ∧ (frameOf p).length = frameLenOf c (be16 (frameOf p) 4) := by
  obtain ⟨-, hd⟩ := (packet_wf_iff c p).1 h
  rw [be16_frameOf, frameOf_length]
  simp only [Config.minDlen, frameLenOf, secHdrLen, crcLen, priHdrLen]
  omega

theorem handedFrame_frameOf_crc (p : Packet) :
    (handedFrame (frameOf p)).crcCalc = (handedFrame (frameOf p)).crcRx := by
  have htrailer : (frameOf p).length - 4 = 16 + p.payload.length := by
    rw [frameOf_length]
    omega
  simp only [handedFrame, htrailer]
  rw [frameOf_take_before_trailer, be32_frameOf_trailer]

/-! ### Agreement with FRAME.DES (43_synchronizer.md R107) -/

/-- A feed that hands a frame over does it at the last byte of the frame, with the frame's own CRC verdict. -/
theorem feed_hands_over {c : Config} {b : Byte} {s t : State} {f : HandedFrame} (hs : Resting c s = true)
    (h : feed c b s = .next t) (hev : t.out.ev = some (.frameValid f) ∨ t.out.ev = some (.frameCrcError f)) :
    ∃ B, c.minDlen ≤ (be16 B 4).toNat ∧ B.length = frameLenOf c (be16 B 4) ∧ f = handedFrame B ∧
      t.out.ev = some (if (handedFrame B).crcCalc = (handedFrame B).crcRx then .frameValid (handedFrame B)
        else .frameCrcError (handedFrame B)) := by
  obtain ⟨e, u, hfeed, hend⟩ := feed_emits_of_resting b hs
  cases hfeed.symm.trans h
  obtain (rfl | rfl | rfl) | ⟨hst, hlast, rfl⟩ := hend
  · simp at hev
  · simp at hev
  · simp at hev
  · obtain ⟨-, hlo, -, hd, hmin⟩ := data_row_of_resting hs hst
    rw [frameEvent_eq hlast] at hev ⊢
    rw [dataLength_append b (by omega) hd] at hmin hlast
    refine ⟨s.fbuf ++ [b], hmin, hlast, Eq.symm ?_, rfl⟩
    split at hev <;> simpa using hev

/-- FRAME.DES of a buffer of exactly the declared length completes, with the CRC values that are handed over. -/
theorem deserialize_of_declared_length {c : Config} {B : List Byte} (s : State)
    (hmin : c.minDlen ≤ (be16 B 4).toNat) (hlen : B.length = frameLenOf c (be16 B 4)) :
    ∃ u, deserialize c false B s = .next u ∧ u.out.err = .noError ∧
      u.out.crcValid = some (decide ((handedFrame B).crcCalc = (handedFrame B).crcRx)) ∧
      u.out.crcRx = some (handedFrame B).crcRx ∧ u.out.crcCalc = some (handedFrame B).crcCalc := by
  have hframe : 20 ≤ B.length := (minFrame_le_frameLenOf hmin).trans_eq hlen.symm
  have hm : (be16 B 4).toNat + c.lenAdj.val + 6 = B.length := by
    simp only [frameLenOf, priHdrLen] at hlen
    omega
  have htrailer : (be16 B 4).toNat + c.lenAdj.val + 2 = B.length - 4 := by omega
  rw [deserialize_of_minFrame c s rfl hframe, checkLength_eq, if_neg (by omega), decodedFrame_eq B (by omega),
    htrailer]
  exact ⟨_, rfl, rfl, rfl, rfl, rfl⟩

/-! ### The statements -/

/-- Settles O35. -/
theorem syncFeedInIdleOpensTheWindow : Obligations.SyncFeedInIdleOpensTheWindow :=
  fun b _ hst => feed_idle Config.hardware b hst

/-- Settles O36. -/
theorem syncFeedInSyncSlidesTheWindow : Obligations.SyncFeedInSyncSlidesTheWindow :=
  fun b _ _ hst hw => feed_sync Config.hardware b hst hw

/-- Settles O37: on this hardware `MIN_DLEN` is 13. -/
theorem syncFeedInPrimaryHeader : Obligations.SyncFeedInPrimaryHeader := by
  rintro b _ s hst hlen rfl
  exact feed_primaryHeader Config.hardware b hst hlen

/-- Settles O38. -/
theorem syncFeedInSecondaryHeader : Obligations.SyncFeedInSecondaryHeader :=
  ⟨fun _ _ => minFrame_le_frameLenOf, fun b _ hst hlen => feed_secondaryHeader Config.hardware b hst hlen⟩

/-- Settles O39: on this hardware `frame_len` is `data_length + 7`. -/
theorem syncFeedInData : Obligations.SyncFeedInData := by
  rintro b _ s hst hlen rfl
  rw [exec_syncFeed, feed_data Config.hardware b hst hlen]
  refine ite_congr rfl (fun hlast => ?_) (fun _ => rfl)
  rw [frameEvent_eq hlast]
  rfl

/-- Settles O41. -/
theorem syncExhaustClearsTheSynchronizer : Obligations.SyncExhaustClearsTheSynchronizer :=
  ⟨decodeCmd_append 0xD, rfl, exec_syncExhaust⟩

/-- Settles O42: the chunks by induction on the first, completion by the invariant of R24. -/
theorem feedingChunksIsFeedingBytes : Obligations.FeedingChunksIsFeedingBytes :=
  ⟨fun _ => rfl, fun _ _ _ _ _ _ _ => feedAll_cons_of_event, fun _ _ _ _ _ _ _ => feedAll_append,
    fun B _ => feedAll_of_resting B⟩

/-- Settles O43: the marker starts an attempt of exactly the frame's length; before the first marker the search goes on. -/
theorem resyncFindsTheEmbeddedFrame : Obligations.ResyncFindsTheEmbeddedFrame := by
  refine ⟨fun c p s hwf hst => ?embedded, fun c X S s hs hst hS => ⟨fun hno => ?search, fun A hA hno => ?marker⟩⟩
  case embedded =>
    obtain ⟨hmin, hlen⟩ := frameOf_declares_length hwf
    obtain ⟨t, hgarbage, ht⟩ := feedAll_garbage_marker c hst
    obtain ⟨u, hframe, hidle⟩ := feedAll_whole_frame ht hmin hlen
    rw [frameEvent_eq hlen, if_pos (handedFrame_frameOf_crc p)] at hframe
    refine ⟨u, handedFrame (frameOf p), ?_, rfl, handedFrame_frmLen hlen, (handedFrame_frameOf_crc p).symm, hidle⟩
    have hbytes : [0x00, 0x11] ++ serialize p true = [0x00, 0x11, 0x55, 0xAA] ++ frameOf p := rfl
    rw [hbytes, List.append_assoc]
    exact feedAll_append hgarbage hframe
  case search =>
    subst hS
    obtain ⟨t, es, hrun, ht⟩ := feedAll_of_noMarker X (searching_window hs hst) hno
    exact ⟨t, es, hrun, ht.st, ht.win⟩
  case marker => exact feedAll_of_first_marker (searching_window hs hst) (hA ▸ hS) hno

/-- Settles O44: the three ends of a feed after the marker, by what its bytes declare. -/
theorem attemptConsumesTheDeclaredLength : Obligations.AttemptConsumesTheDeclaredLength := by
  refine ⟨fun c s hs => Nat.le_sub_one_of_lt (fbuf_length_lt_fbufCap_of_resting hs), frameLenOf_le_fbufCap,
    fun c b s hs => ?total, fun c B s hs hst hb => ?attempt⟩
  case total =>
    obtain ⟨e, u, hfeed, -⟩ := feed_emits_of_resting b hs
    exact ⟨_, hfeed⟩
  case attempt =>
    have hstart := attempting_nil hs hst hb
    refine ⟨feedAll_abandoned hstart, fun hmin hlen => ?whole, fun h6 hmin hlen => ?going⟩
    case whole =>
      obtain ⟨t, hrun, hidle⟩ := feedAll_whole_frame hstart hmin hlen
      exact ⟨t, _, handedFrame B, hrun, hidle, rfl, handedFrame_frmLen hlen, rfl, rfl, frameEvent_eq hlen⟩
    case going =>
      obtain ⟨t, hrun, ht⟩ := feedAll_of_unfinished B hstart (fun _ => ⟨hmin, hlen⟩)
      refine ⟨t, hrun, ht.fbuf, ht.dlen h6, ht.st.resolve_left fun hph => ?_⟩
      obtain ⟨-, hshort, -⟩ := primaryHeader_row_of_resting ht.resting hph
      rw [ht.fbuf, List.nil_append] at hshort
      omega

/-- Settles O45: the frame handed over has exactly the length it declares, which FRAME.DES accepts. -/
theorem handedFramesDeserialize : Obligations.HandedFramesDeserialize := by
  intro c b s t f hs h hev
  obtain ⟨B, hmin, hlen, rfl, hevent⟩ := feed_hands_over hs h hev
  obtain ⟨u, hdes, herr, hvalid, hrx, hcalc⟩ := deserialize_of_declared_length t hmin hlen
  rw [hevent]
  refine ⟨u, hdes, herr, ?_, ?_, hrx, hcalc⟩ <;> rw [hvalid]
  all_goals by_cases hcrc : (handedFrame B).crcCalc = (handedFrame B).crcRx <;> simp [hcrc]

end Sys2Proof.Machine
end

section
/-! The statements of 60_exceptions.md. The conditions of the table of R115 are an inductive relation; what it lists is
raised (`exec_of_raises`), and nothing else is (`raises_of_err_eq`). The frame of an error (R120) and the next
operation (R121) follow from the state that `exec_of_raises` gives. -/

namespace Sys2Proof.Machine

/-! ### The table of errors -/

/-- Step 1 of FRAME.DES is passed: the marker is not asked for, or the buffer starts with it (42_codec.md R88). -/
def MarkerPassed (f : Bool) (B : List Byte) : Prop := f = true → B[0]? = some 0x55 ∧ B[1]? = some 0xAA

/-- The bytes of the buffer that steps 2 to 5 of FRAME.DES look at (42_codec.md R88). -/
def bytesAfterMarker (f : Bool) (B : List Byte) : List Byte := B.drop (if f then 2 else 0)

/-- Step 3 of FRAME.DES refuses the remaining bytes `R`, on this hardware (42_codec.md R88). -/
def LengthRefused (R : List Byte) : Prop := (be16 R 4).toNat < 13 ∨ (be16 R 4).toNat + 7 ≠ R.length

/-- The conditions of the table of 60_exceptions.md R115, with the reserved selectors of 30_encoding.md R58: in state `s`
the operation raises this kind. A later step of FRAME.DES is reached past the earlier ones only (R122). -/
inductive Raises (s : State) : Instr → Err → Prop
  | truncatedHeader (x : BitVec 8) (hshort : s.inp.hdrBytes.length < 16) : Raises s (.hdrUnpack x) .truncatedHeader
  | syncMismatch (x : BitVec 7) (hmarker : ¬ (s.inp.frame[0]? = some 0x55 ∧ s.inp.frame[1]? = some 0xAA)) :
      Raises s (.frameDes true x) .syncMismatch
  | tooShort (f : Bool) (x : BitVec 7) (hmarker : MarkerPassed f s.inp.frame)
      (hshort : (bytesAfterMarker f s.inp.frame).length < 20) : Raises s (.frameDes f x) .tooShort
  | invalidLength (f : Bool) (x : BitVec 7) (hmarker : MarkerPassed f s.inp.frame)
      (hlen : 20 ≤ (bytesAfterMarker f s.inp.frame).length)
      (hrefused : LengthRefused (bytesAfterMarker f s.inp.frame)) : Raises s (.frameDes f x) .invalidLength
  | payloadTooLarge (x : BitVec 8) (hlong : 65521 < s.inp.payload.length) : Raises s (.pktBuild x) .payloadTooLarge
  | reservedOp {i : Instr} (hreserved : i.isOperation = false) : Raises s i .reservedOp

/-- The column "information returned" of the table. -/
def errDatum (s : State) : Instr → Err → Option Nat
  | _, .truncatedHeader => some s.inp.hdrBytes.length
  | .frameDes f _, .tooShort => some (bytesAfterMarker f s.inp.frame).length
  | _, .payloadTooLarge => some s.inp.payload.length
  | _, _ => none

/-! ### Each kind has one row -/

theorem raises_truncatedHeader_iff {s : State} {i : Instr} :
    Raises s i .truncatedHeader ↔ (∃ x, i = .hdrUnpack x) ∧ s.inp.hdrBytes.length < 16 := by
  constructor
  · intro hr
    cases hr with
    | truncatedHeader x hshort => exact ⟨⟨x, rfl⟩, hshort⟩
  · rintro ⟨⟨x, rfl⟩, hshort⟩
    exact .truncatedHeader x hshort

theorem raises_syncMismatch_iff {s : State} {i : Instr} :
    Raises s i .syncMismatch ↔
      (∃ x, i = .frameDes true x) ∧ ¬ (s.inp.frame[0]? = some 0x55 ∧ s.inp.frame[1]? = some 0xAA) := by
  constructor
  · intro hr
    cases hr with
    | syncMismatch x hmarker => exact ⟨⟨x, rfl⟩, hmarker⟩
  · rintro ⟨⟨x, rfl⟩, hmarker⟩
    exact .syncMismatch x hmarker

theorem raises_tooShort_iff {s : State} {i : Instr} :
    Raises s i .tooShort ↔ ∃ f x, i = .frameDes f x ∧ MarkerPassed f s.inp.frame ∧
      (bytesAfterMarker f s.inp.frame).length < 20 := by
  constructor
  · intro hr
    cases hr with
    | tooShort f x hmarker hshort => exact ⟨f, x, rfl, hmarker, hshort⟩
  · rintro ⟨f, x, rfl, hmarker, hshort⟩
    exact .tooShort f x hmarker hshort

theorem raises_invalidLength_iff {s : State} {i : Instr} :
    Raises s i .invalidLength ↔ ∃ f x R, i = .frameDes f x ∧ MarkerPassed f s.inp.frame ∧
      R = bytesAfterMarker f s.inp.frame ∧ 20 ≤ R.length ∧ LengthRefused R := by
  constructor
  · intro hr
    cases hr with
    | invalidLength f x hmarker hlen hrefused => exact ⟨f, x, _, rfl, hmarker, rfl, hlen, hrefused⟩
  · rintro ⟨f, x, _, rfl, hmarker, rfl, hlen, hrefused⟩
    exact .invalidLength f x hmarker hlen hrefused

theorem raises_payloadTooLarge_iff {s : State} {i : Instr} :
    Raises s i .payloadTooLarge ↔ (∃ x, i = .pktBuild x) ∧ 65521 < s.inp.payload.length := by
  constructor
  · intro hr
    cases hr with
    | payloadTooLarge x hlong => exact ⟨⟨x, rfl⟩, hlong⟩
  · rintro ⟨⟨x, rfl⟩, hlong⟩
    exact .payloadTooLarge x hlong

theorem raises_reservedOp_iff {s : State} {i : Instr} :
    Raises s i .reservedOp ↔ i.isOperation = false := by
  constructor
  · intro hr
    cases hr with
    | reservedOp hreserved => exact hreserved
  · exact .reservedOp

/-! ### The machine raises what the table lists -/

theorem afterMarker_of_markerPassed {f : Bool} {B : List Byte} (h : MarkerPassed f B) :
    afterMarker f B = some (bytesAfterMarker f B) := by
  rw [afterMarker_eq_some fun ⟨hf, hno⟩ => hno (h hf)]
  cases f <;> rfl

/-- Steps 3 to 5 of FRAME.DES on this hardware, where one test decides: `LEN_ADJ` is 1 and surplus bytes are refused. -/
theorem exec_frameDes_of_minFrame {f : Bool} (x : BitVec 7) {s : State} (hmarker : MarkerPassed f s.inp.frame)
    (hlen : 20 ≤ (bytesAfterMarker f s.inp.frame).length) :
    (LengthRefused (bytesAfterMarker f s.inp.frame) → exec (.frameDes f x) s = raiseError .invalidLength none s) ∧
    (¬ LengthRefused (bytesAfterMarker f s.inp.frame) →
      ∃ n, exec (.frameDes f x) s = finish (decodedFrame (bytesAfterMarker f s.inp.frame) n) s) := by
  have hadj : Config.hardware.lenAdj.val = 1 := rfl
  have hpolicy : Config.hardware.surplusPolicy = .invalidLength := rfl
  rw [exec_frameDes, deserialize_of_minFrame _ s (afterMarker_of_markerPassed hmarker) hlen, checkLength_eq]
  simp only [hadj, hpolicy, and_true, LengthRefused]
  exact ⟨fun h => if_pos (by omega), fun h => ⟨_, if_neg (by omega)⟩⟩

/-- An operation that raises an error changes the outputs only, and leaves the kind and its datum there (R120). -/
theorem exec_of_raises {s : State} {i : Instr} {e : Err} (h : Raises s i e) :
    exec i s = .next { s with out := { Outputs.quiet with err := e, errInfo := errDatum s i e } } := by
  cases h with
  | truncatedHeader x hshort => exact exec_hdrUnpack_of_short x hshort
  | syncMismatch x hmarker => exact deserialize_of_no_marker _ s (afterMarker_eq_none ⟨rfl, hmarker⟩)
  | tooShort f x hmarker hshort => exact deserialize_of_short _ s (afterMarker_of_markerPassed hmarker) hshort
  | invalidLength f x hmarker hlen hrefused => exact (exec_frameDes_of_minFrame x hmarker hlen).1 hrefused
  | payloadTooLarge x hlong => exact buildPacket_of_long _ _ hlong
  | reservedOp hreserved =>
    cases i with
    | reserved0 _ | reservedE _ | reservedF _ => rfl
    | crcInit _ | crcUpdate _ | crcFinal _ | crcCompute _ | hdrPack _ | hdrUnpack _ | seqNext _ | seqReset _
    | pktBuild _ | frameSer _ _ | frameDes _ _ | syncFeed _ | syncExhaust _ => cases hreserved

/-! ### The machine raises nothing else -/

/-- The operation ends without an error, or the table lists its error. -/
def ErrorListed (s : State) (i : Instr) (t : State) : Prop :=
  (t.out.err = .noError ∧ t.out.errInfo = none) ∨
    (Raises s i t.out.err ∧ t.out.errInfo = errDatum s i t.out.err)

theorem errorListed_of_raises {s t : State} {i : Instr} {e : Err} (h : exec i s = .next t) (hr : Raises s i e) :
    ErrorListed s i t := by
  cases (exec_of_raises hr).symm.trans h
  exact .inr ⟨hr, rfl⟩

theorem emit_no_error {e : Event} {s t : State} (h : emit e s = .next t) :
    t.out.err = .noError ∧ t.out.errInfo = none := by
  cases h
  exact ⟨rfl, rfl⟩

theorem takeDataLength_no_error {c : Config} {s t : State} (h : takeDataLength c s = .next t) :
    t.out.err = .noError ∧ t.out.errInfo = none := by
  rw [takeDataLength, shortLength_eq] at h
  split at h <;> exact emit_no_error h

/-- What SYNC.FEED finds is an event, never an error: along the rows of 43_synchronizer.md R102. -/
theorem feed_no_error {c : Config} {b : Byte} {s t : State} (h : feed c b s = .next t) :
    t.out.err = .noError ∧ t.out.errInfo = none := by
  obtain ⟨-, h⟩ | ⟨-, -, h⟩ | ⟨-, -, -, h⟩ | ⟨-, -, h⟩ | ⟨-, -, ⟨-, h⟩ | ⟨-, h⟩⟩ | ⟨-, -, ⟨-, h⟩ | ⟨-, h⟩⟩ |
    ⟨-, -, ⟨-, h⟩ | ⟨-, h⟩⟩ := feed_cases h
  case inr.inr.inr.inr.inl.inl => exact takeDataLength_no_error h
  all_goals exact emit_no_error h

/-- FRAME.DES in the order of its steps. -/
theorem errorListed_frameDes {f : Bool} {x : BitVec 7} {s t : State} (h : exec (.frameDes f x) s = .next t) :
    ErrorListed s (.frameDes f x) t := by
  by_cases hmarker : MarkerPassed f s.inp.frame
  case neg =>
    obtain ⟨rfl, hno⟩ := Classical.not_imp.mp hmarker
    exact errorListed_of_raises h (.syncMismatch x hno)
  by_cases hshort : (bytesAfterMarker f s.inp.frame).length < 20
  case pos => exact errorListed_of_raises h (.tooShort f x hmarker hshort)
  have hlen := Nat.not_lt.mp hshort
  by_cases hrefused : LengthRefused (bytesAfterMarker f s.inp.frame)
  case pos => exact errorListed_of_raises h (.invalidLength f x hmarker hlen hrefused)
  obtain ⟨n, hdone⟩ := (exec_frameDes_of_minFrame x hmarker hlen).2 hrefused
  cases hdone.symm.trans h
  exact .inl ⟨rfl, rfl⟩

theorem errorListed_of_exec {i : Instr} {s t : State} (h : exec i s = .next t) : ErrorListed s i t := by
  cases i with
  | crcInit _ | crcUpdate _ | crcFinal _ | crcCompute _ | hdrPack _ | seqNext _ | seqReset _ | frameSer _ _
  | syncExhaust _ =>
    cases h
    exact .inl ⟨rfl, rfl⟩
  | reserved0 _ | reservedE _ | reservedF _ => exact errorListed_of_raises h (.reservedOp rfl)
  | hdrUnpack x =>
    by_cases hshort : s.inp.hdrBytes.length < 16
    · exact errorListed_of_raises h (.truncatedHeader x hshort)
    · cases (exec_hdrUnpack_of_long x (Nat.not_lt.mp hshort)).symm.trans h
      exact .inl ⟨rfl, rfl⟩
  | pktBuild x =>
    by_cases hlong : 65521 < s.inp.payload.length
    · exact errorListed_of_raises h (.payloadTooLarge x hlong)
    · cases (buildPacket_of_fits _ _ (Nat.not_lt.mp hlong)).symm.trans h
      exact .inl ⟨rfl, rfl⟩
  | frameDes f x => exact errorListed_frameDes h
  | syncFeed b => exact .inl (feed_no_error h)

/-- A kind on port `err` is listed by the table, with the datum beside it. -/
theorem raises_of_err_eq {i : Instr} {s t : State} {e : Err} (h : exec i s = .next t) (he : e ≠ .noError)
    (herr : t.out.err = e) : Raises s i e ∧ t.out.errInfo = errDatum s i e := by
  subst herr
  exact (errorListed_of_exec h).resolve_left fun ⟨hno, _⟩ => he hno

theorem err_eq_iff_raises {i : Instr} {s t : State} {e : Err} (h : exec i s = .next t) (he : e ≠ .noError) :
    t.out.err = e ↔ Raises s i e := by
  constructor
  · intro herr
    obtain ⟨hr, -⟩ := raises_of_err_eq h he herr
    exact hr
  · intro hr
    cases (exec_of_raises hr).symm.trans h
    rfl

/-! ### PKT.NEW -/

/-- PKT.NEW is refused before the counter moves, or ends without an error. -/
theorem pseudoPktNew_cases {s t : State} (h : pseudoPktNew s = .next t) :
    (65521 < s.inp.payload.length ∧
      t = { s with out := { Outputs.quiet with err := .payloadTooLarge, errInfo := some s.inp.payload.length } }) ∨
    (s.inp.payload.length ≤ 65521 ∧ t.out.err = .noError) := by
  by_cases hlong : 65521 < s.inp.payload.length
  · cases (pseudoPktNew_of_long hlong).symm.trans h
    exact .inl ⟨hlong, rfl⟩
  · have hfits := Nat.not_lt.mp hlong
    have hbuild := (pseudoPktNew_of_fits hfits (exec_seqNext 0 s)).trans (buildPacket_of_fits _ _ hfits)
    cases hbuild.symm.trans h
    exact .inr ⟨hfits, rfl⟩

/-! ### The next operation -/

/-- No operation reads the outputs of the one before it: every end of every operation writes all of them (log 3). -/
theorem exec_ignores_out (j : Instr) (s : State) (o : Outputs) : exec j { s with out := o } = exec j s := by
  cases j <;> rfl

/-! ### The statements -/

/-- Settles O47: row by row of the table, first the condition of each kind, then its datum. -/
theorem errorsAreRaisedExactlyWhenStated : Obligations.ErrorsAreRaisedExactlyWhenStated := by
  refine ⟨fun i s t h => ?operation, fun s t h => ?pktNew, rfl, rfl, rfl, rfl, rfl⟩
  case operation =>
    have listed (e : Err) (he : e ≠ .noError) : t.out.err = e ↔ Raises s i e := err_eq_iff_raises h he
    have datum (e : Err) (he : e ≠ .noError) (herr : t.out.err = e) : t.out.errInfo = errDatum s i e :=
      (raises_of_err_eq h he herr).2
    refine ⟨?conditionTruncatedHeader, ?conditionSyncMismatch, ?conditionTooShort, ?conditionInvalidLength,
      ?conditionPayloadTooLarge, ?conditionReservedOp, ?never, datum .truncatedHeader nofun, ?datumTooShort,
      datum .syncMismatch nofun, datum .invalidLength nofun, datum .payloadTooLarge nofun⟩
    case conditionTruncatedHeader => exact (listed .truncatedHeader nofun).trans raises_truncatedHeader_iff
    case conditionSyncMismatch => exact (listed .syncMismatch nofun).trans raises_syncMismatch_iff
    case conditionTooShort => exact (listed .tooShort nofun).trans raises_tooShort_iff
    case conditionInvalidLength => exact (listed .invalidLength nofun).trans raises_invalidLength_iff
    case conditionPayloadTooLarge => exact (listed .payloadTooLarge nofun).trans raises_payloadTooLarge_iff
    case conditionReservedOp => exact (listed .reservedOp nofun).trans raises_reservedOp_iff
    case never =>
      have unlisted (e : Err) (he : e ≠ .noError) (hno : ¬ Raises s i e) : t.out.err ≠ e := (listed e he).not.mpr hno
      exact ⟨unlisted .crcMismatch nofun nofun, unlisted .missingField nofun nofun,
        unlisted .invalidPacketType nofun nofun, unlisted .badHexValue nofun nofun⟩
    case datumTooShort =>
      rintro herr f x rfl
      exact datum .tooShort nofun herr
  case pktNew =>
    obtain ⟨hlong, rfl⟩ | ⟨hfits, hno⟩ := pseudoPktNew_cases h
    · exact ⟨iff_of_true rfl hlong, fun _ => rfl⟩
    · have herr : t.out.err ≠ .payloadTooLarge := fun he => Err.noConfusion (hno.symm.trans he)
      exact ⟨iff_of_false herr (Nat.not_lt.mpr hfits), fun he => absurd he herr⟩

/-- Settles O48: an error is one of the table, and the state it leaves differs in the outputs only. -/
theorem errorsWriteNoRegister : Obligations.ErrorsWriteNoRegister := by
  refine ⟨fun i s t h he => ?operation, fun s t h he => ?pktNew, fun e he => ?code⟩
  case operation =>
    obtain ⟨hraises, -⟩ := raises_of_err_eq h he rfl
    have hend := (exec_of_raises hraises).symm.trans h
    generalize t.out.err = e at hend
    cases hend
    exact ⟨⟨rfl, rfl, rfl, rfl, rfl, rfl⟩, ⟨rfl, rfl⟩, rfl, fun j => exec_ignores_out j s _⟩
  case pktNew =>
    obtain ⟨-, rfl⟩ | ⟨-, hno⟩ := pseudoPktNew_cases h
    · rfl
    · exact absurd hno he
  case code =>
    cases e with
    | noError => exact absurd rfl he
    | truncatedHeader | tooShort | syncMismatch | invalidLength | crcMismatch | missingField | invalidPacketType
    | badHexValue | payloadTooLarge | reservedOp => decide

/-- Settles O49: SYNC.FEED completes by the table of R24, the other nine in every state. -/
theorem tenOperationsNeverEndInAnError : Obligations.TenOperationsNeverEndInAnError := by
  intro i s hop hunpack hbuild hdes hfeed
  cases i with
  | crcInit _ | crcUpdate _ | crcFinal _ | crcCompute _ | hdrPack _ | seqNext _ | seqReset _ | frameSer _ _
  | syncExhaust _ => exact ⟨_, rfl, rfl, rfl⟩
  | syncFeed b =>
    obtain ⟨e, u, hemit, -⟩ := feed_emits_of_resting b (hfeed ⟨b, rfl⟩)
    exact ⟨_, hemit, rfl, rfl⟩
  | hdrUnpack x => exact absurd rfl (hunpack x)
  | pktBuild x => exact absurd rfl (hbuild x)
  | frameDes f x => exact absurd rfl (hdes f x)
  | reserved0 _ | reservedE _ | reservedF _ => cases hop

end Sys2Proof.Machine
end

section
/-! The statement of 70_reset_and_hazards.md. RESET and the three partial resets each have one equation that names the whole
state they end in; the registers are read off it. -/

namespace Sys2Proof.Machine

/-- A step on RESET in any state: the request is dropped and the block is reset at the default parameters. -/
theorem step_of_reset {s : State} {rest : List Request} (h : s.program = .reset :: rest) :
    step s = .next (applyReset Config.hardware { s with program := rest }) := by
  rw [step, stepBy, nextIssued_reset h]

/-- Settles O3: each clause by the equation of its reset; the IDLE row holds after RESET from any state. -/
theorem resetLoadsEveryRegister : Obligations.ResetLoadsEveryRegister := by
  refine ⟨fun s rest hprogram => ?reset, fun s x => ?syncExhaust, fun s x => ?seqReset, fun s x => ?crcInit⟩
  case reset =>
    exact ⟨_, step_of_reset hprogram, applyReset_st _ _, applyReset_win _ _, applyReset_fbuf _ _, applyReset_dlen _ _,
      applyReset_seqCnt _ _, applyReset_crcAcc _ _, applyReset_out _ _, resting_applyReset _ _ _⟩
  case syncExhaust =>
    exact ⟨_, exec_syncExhaust x s, clearSync_st s, clearSync_win s, clearSync_fbuf s, clearSync_dlen s,
      clearSync_seqCnt s, clearSync_crcAcc s⟩
  case seqReset => exact ⟨_, exec_seqReset x s, rfl, rfl, rfl, rfl, rfl, rfl⟩
  case crcInit => exact ⟨_, exec_crcInit x s, rfl, rfl, rfl, rfl, rfl, rfl⟩

end Sys2Proof.Machine
end

section
/-! The statements of 30_encoding.md that go through the decoder in both directions (R54, R58). A word is its selector before
its immediate, so it is enough that decoding keeps both fields; what an operation does is fixed by its canonical form. -/

namespace Sys2Proof.Machine

/-! ### The two fields of a decoded word -/

/-- A word is its selector before its immediate. -/
theorem opOf_append_immOf (w : CmdWord) : opOf w ++ immOf w = w := Laws.append_extract (n := 4) (m := 8) w

/-- `imm8` of FRAME.SER and FRAME.DES is its ignored bits before the option bit. -/
theorem upperImmOf_append_flagOf (w : CmdWord) : upperImmOf w ++ BitVec.ofBool (flagOf w) = immOf w := by
  have hlow : BitVec.ofBool (flagOf w) = (immOf w).extractLsb' 0 1 := by
    ext i hi
    obtain rfl : i = 0 := by omega
    simp [flagOf, immOf]
  have hhigh : upperImmOf w = (immOf w).extractLsb' 1 7 := (BitVec.extractLsb'_extractLsb'_of_le (by omega)).symm
  rw [hlow, hhigh]
  exact Laws.append_extract (n := 7) (m := 1) (immOf w)

theorem selectorOf_decodeCmd (w : CmdWord) : selectorOf (decodeCmd w) = opOf w := by
  have hop := (opOf w).isLt
  apply BitVec.eq_of_toNat_eq
  unfold decodeCmd
  split
  case h_16 =>
    -- the last case of the table is `op` = 0xF, since `op` has four bits
    simp only [imp_false] at *
    have hlast : (opOf w).toNat = 15 := by omega
    exact hlast.symm
  all_goals
    rename_i heq
    exact heq.symm

theorem immediateOf_decodeCmd (w : CmdWord) : immediateOf (decodeCmd w) = immOf w := by
  unfold decodeCmd
  split
  case h_11 | h_12 => exact upperImmOf_append_flagOf w
  all_goals rfl

theorem encode_decodeCmd (w : CmdWord) : encode (decodeCmd w) = w := by
  rw [encode, selectorOf_decodeCmd, immediateOf_decodeCmd, opOf_append_immOf]

/-- The option and the ignored bits of FRAME.SER and FRAME.DES, read back from their `imm8`. -/
theorem option_fields (f : Bool) (x : BitVec 7) :
    (x ++ BitVec.ofBool f).getLsbD 0 = f ∧ (x ++ BitVec.ofBool f).extractLsb' 1 7 = x :=
  ⟨by rw [BitVec.getLsbD_append]; simp, Laws.extract_high x (BitVec.ofBool f)⟩

theorem decodeCmd_encode (i : Instr) : decodeCmd (encode i) = i := by
  rw [encode, decodeCmd_append]
  cases i with
  | frameSer f x | frameDes f x =>
    obtain ⟨hflag, hignored⟩ := option_fields f x
    exact congrArg₂ _ hflag hignored
  | crcInit _ | crcUpdate _ | crcFinal _ | crcCompute _ | hdrPack _ | hdrUnpack _ | seqNext _ | seqReset _
  | pktBuild _ | syncFeed _ | syncExhaust _ | reserved0 _ | reservedE _ | reservedF _ => rfl

/-- A 12-bit word is never too wide for the command port. -/
theorem decode_toNat (w : CmdWord) : decode w.toNat = .ok (decodeCmd w) := by
  rw [decode, if_pos w.isLt, BitVec.ofNat_toNat, BitVec.setWidth_eq]

/-! ### The used bits fix the canonical form -/

/-- The canonical form reads the selector, and of `imm8` only what the column "use of imm8" names (30_encoding.md R54). -/
theorem canonicalForm_decodeCmd_eq {w v : CmdWord} (hop : opOf w = opOf v)
    (himm : opOf w = 0x2 ∨ opOf w = 0xC → immOf w = immOf v)
    (hflag : opOf w = 0xA ∨ opOf w = 0xB → flagOf w = flagOf v) :
    canonicalForm (decodeCmd w) = canonicalForm (decodeCmd v) := by
  unfold decodeCmd
  rw [← hop]
  split
  case h_3 heq => rw [himm (.inl (BitVec.eq_of_toNat_eq heq))]
  case h_13 heq => rw [himm (.inr (BitVec.eq_of_toNat_eq heq))]
  case h_11 heq => rw [hflag (.inl (BitVec.eq_of_toNat_eq heq))]; rfl
  case h_12 heq => rw [hflag (.inr (BitVec.eq_of_toNat_eq heq))]; rfl
  all_goals rfl

/-! ### The statements -/

/-- Settles O8: decoding keeps the selector and the immediate, and each constructor is read back from its two fields. -/
theorem decodeAndEncodeAreInverse : Obligations.DecodeAndEncodeAreInverse := by
  refine ⟨fun i => ⟨decodeCmd_encode i, ?_⟩, encode_decodeCmd⟩
  rw [decode_toNat, decodeCmd_encode]

/-- Settles O9: words that agree in the used bits decode to operations with the same canonical form. -/
theorem unusedWordBitsAreIgnored : Obligations.UnusedWordBitsAreIgnored :=
  fun _ _ s hop himm hflag => exec_eq_of_canonicalForm_eq s (canonicalForm_decodeCmd_eq hop himm hflag)

/-- Settles O6: each word is its selector before its immediate. -/
theorem writtenOutWordsDecode : Obligations.WrittenOutWordsDecode :=
  ⟨decodeCmd_append 0x1 0x00, decodeCmd_append 0x2 0x61, decodeCmd_append 0x5 0x00, decodeCmd_append 0x7 0x00,
    decodeCmd_append 0xA 0x01, decodeCmd_append 0xB 0x00, decodeCmd_append 0xC 0xAA, decodeCmd_append 0xE 0x55⟩

/-- Settles O10: the words by their fields; a reserved selector is a row of the table of errors. -/
theorem reservedSelectorsReportReservedOp : Obligations.ReservedSelectorsReportReservedOp := by
  refine ⟨fun x => ?words, fun x s => ?error, rfl⟩
  case words =>
    exact ⟨decodeCmd_append 0x2 x, decodeCmd_append 0xC x, decodeCmd_append 0xA x, decodeCmd_append 0xB x,
      decodeCmd_append 0x0 x, decodeCmd_append 0xE x, decodeCmd_append 0xF x⟩
  case error =>
    exact ⟨exec_of_raises (i := .reserved0 x) (.reservedOp rfl), exec_of_raises (i := .reservedE x) (.reservedOp rfl),
      exec_of_raises (i := .reservedF x) (.reservedOp rfl)⟩

/-- Settles O11: row by row of the three tables. -/
theorem portCodes : Obligations.PortCodes :=
  ⟨⟨rfl, rfl, rfl, rfl, rfl, rfl, rfl, rfl, rfl, rfl, rfl⟩, ⟨rfl, rfl, fun _ => rfl, fun _ => rfl, rfl⟩,
    ⟨rfl, rfl, rfl, rfl, rfl, rfl, rfl⟩⟩

end Sys2Proof.Machine
end

section
/-! The statements of 10_state.md, 43_synchronizer.md R102 and R106 (a), and 44_arithmetic_control_access.md R111 and R112
that are about every operation and every step. What a completed feed does to `ST` and `FBUF` is an inductive relation,
`FeedRow`, from which the edges, the bytes of the buffer and its capacity are read off. Progress is by the table of R24; a
run from a resting state is followed by induction on the number of steps. -/

namespace Sys2Proof.Machine

/-! ### What a completed feed does to `ST` and `FBUF` -/

/-- `ST` before and after a feed that appends its byte and goes on with the attempt (43_synchronizer.md R98 to R100). -/
inductive Accumulates : SyncState → SyncState → Prop
  | primaryHeader : Accumulates .primaryHeader .primaryHeader
  | dataLengthTaken : Accumulates .primaryHeader .secondaryHeader
  | secondaryHeader : Accumulates .secondaryHeader .secondaryHeader
  | headerComplete : Accumulates .secondaryHeader .data
  | data : Accumulates .data .data

/-- The five ways in which a feed of `b` that completes moves `ST` and `FBUF` (43_synchronizer.md R102). -/
inductive FeedRow (c : Config) (b : Byte) (s t : State) : Prop
  | windowOpened (hs : s.st = .idle) (ht : t.st = .sync) (hbuf : t.fbuf = [])
  | stillSearching (hs : s.st = .sync) (ht : t.st = .sync) (hbuf : t.fbuf = s.fbuf)
  | markerFound (hs : s.st = .sync) (ht : t.st = .primaryHeader) (hbuf : t.fbuf = [])
  | attemptEnded (hs : s.st = .primaryHeader ∨ s.st = .data) (ht : t.st = .idle) (hbuf : t.fbuf = [])
  | appended (hroom : s.fbuf.length < c.fbufCap) (hst : Accumulates s.st t.st) (hbuf : t.fbuf = s.fbuf ++ [b])

/-- The sixth byte ends the attempt or takes `data_length`. -/
theorem feedRow_of_takeDataLength {c : Config} {b : Byte} {s t : State} (hst : s.st = .primaryHeader)
    (hroom : s.fbuf.length < c.fbufCap) (h : takeDataLength c { s with fbuf := s.fbuf ++ [b] } = .next t) :
    FeedRow c b s t := by
  rw [takeDataLength, shortLength_eq] at h
  split at h <;> cases h
  · exact .attemptEnded (.inl hst) rfl rfl
  · exact .appended hroom (by rw [hst]; exact .dataLengthTaken) rfl

theorem feedRow_of_feed {c : Config} {b : Byte} {s t : State} (h : feed c b s = .next t) : FeedRow c b s t := by
  obtain ⟨hst, h⟩ | ⟨hst, -, h⟩ | ⟨hst, -, -, h⟩ | ⟨hst, -, h⟩ | ⟨hst, hroom, ⟨-, h⟩ | ⟨-, h⟩⟩ |
    ⟨hst, hroom, ⟨-, h⟩ | ⟨-, h⟩⟩ | ⟨hst, hroom, ⟨-, h⟩ | ⟨-, h⟩⟩ := feed_cases h
  case inr.inr.inr.inr.inl.inl => exact feedRow_of_takeDataLength hst hroom h
  all_goals cases h
  · exact .windowOpened hst rfl rfl
  · exact .stillSearching hst hst rfl
  · exact .markerFound hst rfl rfl
  · exact .stillSearching hst hst rfl
  · exact .appended hroom (by rw [hst]; exact .primaryHeader) rfl
  · exact .appended hroom (by rw [hst]; exact .headerComplete) rfl
  · exact .appended hroom (by rw [hst]; exact .secondaryHeader) rfl
  · exact .attemptEnded (.inr hst) rfl rfl
  · exact .appended hroom (by rw [hst]; exact .data) rfl

/-! ### The edges of `ST` -/

theorem Accumulates.stEdge {a b : SyncState} (h : Accumulates a b) : StEdge a b = true := by
  cases h <;> rfl

theorem FeedRow.stEdge {c : Config} {b : Byte} {s t : State} (h : FeedRow c b s t) : StEdge s.st t.st = true := by
  cases h with
  | windowOpened hs ht _ | stillSearching hs ht _ | markerFound hs ht _ => rw [hs, ht]; rfl
  | attemptEnded hs ht _ => obtain hs | hs := hs <;> rw [hs, ht] <;> rfl
  | appended _ hst _ => exact hst.stEdge

/-! ### The bytes of `FBUF` -/

theorem fbufByte_of_fbuf_nil {s : State} (h : s.fbuf = []) (a : Nat) : fbufByte s a = none := by
  simp [fbufByte, h]

theorem fbufByte_congr {s t : State} (h : t.fbuf = s.fbuf) (a : Nat) : fbufByte t a = fbufByte s a := by
  rw [fbufByte, h, fbufByte]

theorem fbufByte_of_appended {s t : State} {b : Byte} (h : t.fbuf = s.fbuf ++ [b]) (a : Nat) :
    fbufByte t a = if a = s.fbuf.length then some b else fbufByte s a :=
  (fbufByte_congr (s := { s with fbuf := s.fbuf ++ [b] }) h a).trans (fbufByte_append s b a)

/-- While bytes accumulate, `ST` is in none of the states in which the buffer is cleared or left. -/
theorem Accumulates.not_searching {a b : SyncState} (h : Accumulates a b) :
    a ≠ .idle ∧ a ≠ .sync ∧ b ≠ .idle ∧ b ≠ .sync := by
  cases h <;> decide

theorem FeedRow.fbuf_of_searching {c : Config} {b : Byte} {s t : State} (h : FeedRow c b s t) (hs : s.st = .sync)
    (ht : t.st = .sync) : t.fbuf = s.fbuf := by
  cases h with
  | stillSearching _ _ hbuf => exact hbuf
  | windowOpened hs' _ _ => cases hs.symm.trans hs'
  | markerFound _ ht' _ | attemptEnded _ ht' _ => cases ht.symm.trans ht'
  | appended _ hst _ => exact absurd hs hst.not_searching.2.1

theorem FeedRow.fbuf_of_cleared {c : Config} {b : Byte} {s t : State} (h : FeedRow c b s t)
    (hst : s.st = .idle ∨ t.st = .primaryHeader ∧ s.st = .sync ∨ t.st = .idle) : t.fbuf = [] := by
  cases h with
  | windowOpened _ _ hbuf | markerFound _ _ hbuf | attemptEnded _ _ hbuf => exact hbuf
  | stillSearching hs ht _ => simp [hs, ht] at hst
  | appended _ hacc _ =>
    obtain ⟨hidle, hsync, htidle, -⟩ := hacc.not_searching
    simp [hidle, hsync, htidle] at hst

theorem FeedRow.fbuf_of_accumulating {c : Config} {b : Byte} {s t : State} (h : FeedRow c b s t)
    (hs : s.st = .primaryHeader ∨ s.st = .secondaryHeader ∨ s.st = .data) (ht : t.st ≠ .idle) :
    t.fbuf = s.fbuf ++ [b] := by
  cases h with
  | appended _ _ hbuf => exact hbuf
  | attemptEnded _ ht' _ => exact absurd ht' ht
  | windowOpened hs' _ _ | stillSearching hs' _ _ | markerFound hs' _ _ => simp [hs'] at hs

/-! ### The capacity of `FBUF` -/

theorem FeedRow.keeps_memory_wf {c : Config} {b : Byte} {s t : State} (h : FeedRow c b s t)
    (hs : Memory.wf c s.fbuf = true) : Memory.wf c t.fbuf = true := by
  cases h with
  | windowOpened _ _ hbuf | markerFound _ _ hbuf | attemptEnded _ _ hbuf => rw [hbuf]; exact memory_wf_nil c
  | stillSearching _ _ hbuf => rw [hbuf]; exact hs
  | appended hroom _ hbuf => rw [hbuf]; exact memory_wf_append b hroom

theorem execUnder_keeps_memory_wf {c : Config} {i : Instr} {s t : State} (hs : Memory.wf c s.fbuf = true)
    (h : execUnder c i s = .next t) : Memory.wf c t.fbuf = true := by
  by_cases hf : ∃ b, i = .syncFeed b
  · obtain ⟨b, rfl⟩ := hf
    exact (feedRow_of_feed h).keeps_memory_wf hs
  by_cases hx : ∃ x, i = .syncExhaust x
  · obtain ⟨x, rfl⟩ := hx
    cases h
    exact memory_wf_nil c
  obtain ⟨a, n, o, rfl⟩ := execUnder_writes_only_of_not_sync (not_exists.1 hf) (not_exists.1 hx) h
  exact hs

theorem stepUnder_keeps_memory_wf {c : Config} {s t : State} (hs : Memory.wf c s.fbuf = true)
    (h : stepUnder c s = .next t) : Memory.wf c t.fbuf = true := by
  obtain ⟨-, e⟩ | ⟨rest, -, e⟩ | ⟨w, ports, rest, -, e⟩ := stepBy_cases (execUnder c) c s
  · cases e.symm.trans h
    exact hs
  · cases e.symm.trans h
    exact memory_wf_nil c
  · exact execUnder_keeps_memory_wf (s := { s with program := rest, inp := ports }) hs (e.symm.trans h)

/-! ### Progress: what completes, and where a feed stops -/

theorem buildPacket_completes (c : Config) (n : BitVec 14) (s : State) : ∃ t, buildPacket c n s = .next t := by
  obtain ⟨-, e⟩ | ⟨-, e⟩ := buildPacket_cases c n s <;> exact ⟨_, e⟩

theorem deserialize_completes (c : Config) (f : Bool) (B : List Byte) (s : State) :
    ∃ t, deserialize c f B s = .next t := by
  obtain ⟨e, -⟩ | ⟨_, -, e | e | ⟨_, e⟩⟩ := deserialize_cases c f B s <;> exact ⟨_, e⟩

theorem exec_hdrUnpack_completes (x : BitVec 8) (s : State) : ∃ t, exec (.hdrUnpack x) s = .next t := by
  obtain h | h := Nat.lt_or_ge s.inp.hdrBytes.length 16
  · exact ⟨_, exec_hdrUnpack_of_short x h⟩
  · exact ⟨_, exec_hdrUnpack_of_long x h⟩

/-- Every operation but SYNC.FEED completes in every state, the reserved selectors among them (log 1). -/
theorem execUnder_completes_of_not_feed (c : Config) {i : Instr} (hf : ∀ b, i ≠ .syncFeed b) (s : State) :
    ∃ t, execUnder c i s = .next t := by
  cases i with
  | crcInit _ | crcUpdate _ | crcFinal _ | crcCompute _ | hdrPack _ | seqNext _ | seqReset _ | frameSer _ _
  | syncExhaust _ | reserved0 _ | reservedE _ | reservedF _ => exact ⟨_, rfl⟩
  | hdrUnpack x => exact exec_hdrUnpack_completes x s
  | pktBuild _ => exact buildPacket_completes c _ s
  | frameDes f _ => exact deserialize_completes c f _ s
  | syncFeed b => exact absurd rfl (hf b)

/-- An append whose continuation completes stops on a full buffer only. -/
theorem appendThen_completes_or_full {c : Config} {b : Byte} {s : State}
    {k : State → Host.Outcome State Fault Refusal} (hk : ∀ u, ∃ t, k u = .next t) :
    (∃ t, appendThen c b s k = .next t) ∨
      (c.fbufCap ≤ s.fbuf.length ∧ appendThen c b s k = .fault .fbufFull) := by
  obtain hroom | hfull := Nat.lt_or_ge s.fbuf.length c.fbufCap
  · rw [appendThen_of_room hroom]
    exact .inl (hk _)
  · exact .inr ⟨hfull, appendThen_of_full hfull⟩

theorem takeDataLength_completes (c : Config) (s : State) : ∃ t, takeDataLength c s = .next t := by
  rw [takeDataLength, shortLength_eq]
  split <;> exact ⟨_, rfl⟩

theorem feedSync_completes (b : Byte) (s : State) : ∃ t, feedSync b s = .next t := by
  unfold feedSync
  split
  · exact ⟨_, rfl⟩
  · split <;> exact ⟨_, rfl⟩

theorem feedPrimaryHeader_completes_or_full (c : Config) (b : Byte) (s : State) :
    (∃ t, feedPrimaryHeader c b s = .next t) ∨
      (c.fbufCap ≤ s.fbuf.length ∧ feedPrimaryHeader c b s = .fault .fbufFull) :=
  appendThen_completes_or_full fun u => by
    split
    · exact takeDataLength_completes c u
    · exact ⟨_, rfl⟩

theorem feedSecondaryHeader_completes_or_full (c : Config) (b : Byte) (s : State) :
    (∃ t, feedSecondaryHeader c b s = .next t) ∨
      (c.fbufCap ≤ s.fbuf.length ∧ feedSecondaryHeader c b s = .fault .fbufFull) :=
  appendThen_completes_or_full fun u => by split <;> exact ⟨_, rfl⟩

theorem feedData_completes_or_full (c : Config) (b : Byte) (s : State) :
    (∃ t, feedData c b s = .next t) ∨ (c.fbufCap ≤ s.fbuf.length ∧ feedData c b s = .fault .fbufFull) :=
  appendThen_completes_or_full fun u => by split <;> exact ⟨_, rfl⟩

/-- A feed completes, or stops in a transient state or on a full buffer (logs 8 and 9). -/
theorem feed_completes_or_stops (c : Config) (b : Byte) (s : State) :
    (∃ t, feed c b s = .next t) ∨
    ((s.st = .valid ∨ s.st = .crcError) ∧ feed c b s = .fault .transientState) ∨
    ((s.st = .primaryHeader ∨ s.st = .secondaryHeader ∨ s.st = .data) ∧ c.fbufCap ≤ s.fbuf.length ∧
      feed c b s = .fault .fbufFull) := by
  unfold feed
  split
  next => exact .inl ⟨_, rfl⟩
  next => exact .inl (feedSync_completes b s)
  next hst =>
    exact (feedPrimaryHeader_completes_or_full c b s).imp_right fun h => .inr ⟨.inl hst, h⟩
  next hst =>
    exact (feedSecondaryHeader_completes_or_full c b s).imp_right fun h => .inr ⟨.inr (.inl hst), h⟩
  next hst =>
    exact (feedData_completes_or_full c b s).imp_right fun h => .inr ⟨.inr (.inr hst), h⟩
  next hst => exact .inr (.inl ⟨.inl hst, rfl⟩)
  next hst => exact .inr (.inl ⟨.inr hst, rfl⟩)

/-- From the table of R24 every operation completes. -/
theorem execUnder_completes_of_resting {c : Config} (i : Instr) {s : State} (hs : Resting c s = true) :
    ∃ t, execUnder c i s = .next t := by
  by_cases hf : ∃ b, i = .syncFeed b
  · obtain ⟨b, rfl⟩ := hf
    obtain ⟨e, u, hfeed, -⟩ := feed_emits_of_resting b hs
    exact ⟨_, hfeed⟩
  · exact execUnder_completes_of_not_feed c (not_exists.1 hf) s

theorem stepUnder_completes_of_resting {c : Config} {s : State} (hs : Resting c s = true) :
    ∃ t, stepUnder c s = .next t := by
  obtain ⟨-, e⟩ | ⟨rest, -, e⟩ | ⟨w, ports, rest, -, e⟩ := stepBy_cases (execUnder c) c s
  · exact ⟨_, e⟩
  · exact ⟨_, e⟩
  · have hs' : Resting c { s with program := rest, inp := ports } = true :=
      resting_of_same_sync_registers (s := s) rfl rfl rfl rfl hs
    obtain ⟨t, h⟩ := execUnder_completes_of_resting (decodeCmd w) hs'
    exact ⟨t, e.trans h⟩

/-! ### Runs -/

/-- A predicate that lets every step complete and that every step keeps holds after any number of steps, of any machine. -/
theorem run_of_invariant {M : Host.Core} {P : M.State → Prop} (hstep : ∀ s, P s → ∃ t, M.step s = .next t ∧ P t)
    (k : Nat) {s : M.State} (hs : P s) : ∃ t, M.run k s = .next t ∧ P t := by
  induction k generalizing s with
  | zero => exact ⟨s, rfl, hs⟩
  | succ k ih =>
    obtain ⟨t, ht, hPt⟩ := hstep s hs
    rw [Host.Core.run, ht]
    exact ih hPt

/-- The table of R24 is such a predicate, for every configuration. -/
theorem stepUnder_of_resting {c : Config} (s : State) (hs : Resting c s = true) :
    ∃ t, stepUnder c s = .next t ∧ Resting c t = true := by
  obtain ⟨t, h⟩ := stepUnder_completes_of_resting hs
  exact ⟨t, h, stepUnder_keeps_resting hs h⟩

theorem step_of_resting (s : State) (hs : Resting Config.hardware s = true) :
    ∃ t, step s = .next t ∧ Resting Config.hardware t = true := by
  rw [step_eq_stepUnder_hardware]
  exact stepUnder_of_resting s hs

theorem core_eq_coreUnder_hardware : Sys2Proof.core = coreUnder Config.hardware := by
  have hstep : step = stepUnder Config.hardware := funext step_eq_stepUnder_hardware
  rw [Sys2Proof.core, hstep]
  rfl

/-! ### The registers outside the synchronizer -/

/-- `SEQ_CNT` is written by SEQ.NEXT and SEQ.RESET alone (10_state.md R10). -/
theorem execUnder_keeps_seqCnt {c : Config} {i : Instr} {s t : State} (hnext : ∀ x, i ≠ .seqNext x)
    (hreset : ∀ x, i ≠ .seqReset x) (h : execUnder c i s = .next t) : t.seqCnt = s.seqCnt := by
  cases i with
  | seqNext x => exact absurd rfl (hnext x)
  | seqReset x => exact absurd rfl (hreset x)
  | crcInit _ | crcUpdate _ | crcFinal _ | crcCompute _ | hdrPack _ | frameSer _ _ | syncExhaust _
  | reserved0 _ | reservedE _ | reservedF _ =>
    cases h
    rfl
  | hdrUnpack _ =>
    obtain ⟨o, rfl⟩ := execHdrUnpack_writes_only_out h
    rfl
  | pktBuild _ =>
    obtain ⟨o, rfl⟩ := buildPacket_writes_only_out h
    rfl
  | frameDes _ _ =>
    obtain ⟨o, rfl⟩ := deserialize_writes_only_out h
    rfl
  | syncFeed _ =>
    obtain ⟨-, hcnt, -⟩ := feed_keeps_outside_sync h
    exact hcnt

/-- The synchronizer's registers are written by SYNC.FEED and SYNC.EXHAUST alone (10_state.md R10). -/
theorem exec_keeps_sync_registers {i : Instr} {s t : State} (hf : ∀ b, i ≠ .syncFeed b)
    (hx : ∀ x, i ≠ .syncExhaust x) (h : exec i s = .next t) :
    t.st = s.st ∧ t.win = s.win ∧ t.fbuf = s.fbuf ∧ t.dlen = s.dlen := by
  rw [exec_eq_execUnder_hardware] at h
  obtain ⟨a, n, o, rfl⟩ := execUnder_writes_only_of_not_sync hf hx h
  exact ⟨rfl, rfl, rfl, rfl⟩

/-! ### The parameters -/

theorem minDlen_add_lenAdj (c : Config) : c.minDlen + c.lenAdj.val = 14 := by
  have := c.lenAdj.isLt
  simp only [Config.minDlen, secHdrLen, crcLen]
  omega

/-- An operation that R5 names no parameter for is the same in every configuration. -/
theorem execUnder_eq_exec (c : Config) {i : Instr} (s : State) (hreset : ∀ x, i ≠ .seqReset x)
    (hbuild : ∀ x, i ≠ .pktBuild x) (hdes : ∀ f x, i ≠ .frameDes f x) (hfeed : ∀ b, i ≠ .syncFeed b) :
    execUnder c i s = exec i s := by
  cases i with
  | seqReset x => exact absurd rfl (hreset x)
  | pktBuild x => exact absurd rfl (hbuild x)
  | frameDes f x => exact absurd rfl (hdes f x)
  | syncFeed b => exact absurd rfl (hfeed b)
  | crcInit _ | crcUpdate _ | crcFinal _ | crcCompute _ | hdrPack _ | hdrUnpack _ | seqNext _ | frameSer _ _
  | syncExhaust _ | reserved0 _ | reservedE _ | reservedF _ => rfl

theorem stepUnder_of_reset (c : Config) {s : State} {rest : List Request} (h : s.program = .reset :: rest) :
    stepUnder c s = .next (applyReset c { s with program := rest }) := by
  rw [stepUnder, stepBy, nextIssued_reset h]

/-! ### The statements -/

/-- Settles O53: an operation appends with room only, clears, or leaves the buffer; a RESET clears it. -/
theorem everyStepKeepsTheBufferWithinCapacity : Obligations.EveryStepKeepsTheBufferWithinCapacity :=
  fun s _ hs h => stepUnder_keeps_memory_wf hs (step_eq_stepUnder_hardware s ▸ h)

/-- Settles O58, by induction on the number of steps. -/
theorem runsUnderEveryConfigurationNeverStop : Obligations.RunsUnderEveryConfigurationNeverStop :=
  fun c k _ hs => run_of_invariant (M := coreUnder c) stepUnder_of_resting k hs

/-- Settles O54: by the same induction, with the step of this hardware. -/
theorem runsFromRestingStatesNeverStop : Obligations.RunsFromRestingStatesNeverStop :=
  fun k _ hs => run_of_invariant (M := Sys2Proof.core) step_of_resting k hs

/-- Settles O57. -/
theorem everyConfigurationKeepsItsInvariants : Obligations.EveryConfigurationKeepsItsInvariants :=
  fun c => ⟨⟨resetUnder_st c, resting_resetUnder c⟩, fun _ _ => stepUnder_keeps_resting,
    fun _ _ => stepUnder_keeps_memory_wf⟩

/-- Settles O40: a feed from the table ends with an event, which is a quiet set of outputs but for port `ev`. -/
theorem syncFeedIsTotalOnRestingStates : Obligations.SyncFeedIsTotalOnRestingStates := by
  intro c b s hs
  obtain ⟨e, u, hfeed, -⟩ := feed_emits_of_resting b hs
  exact ⟨_, e, hfeed, feed_keeps_resting hs hfeed, rfl, feed_keeps_outside_sync hfeed⟩

/-- Settles O46: a feed by its rows; outside the synchronizer `ST` is not written. -/
theorem stTakesOnlyTheListedEdges : Obligations.StTakesOnlyTheListedEdges := by
  refine fun i s t h => ⟨?feed, ?exhaust, fun hf hx => (exec_keeps_sync_registers hf hx h).1⟩
  case feed =>
    rintro ⟨b, rfl⟩
    exact (feedRow_of_feed h).stEdge
  case exhaust =>
    rintro ⟨x, rfl⟩
    cases h
    rfl

/-- Settles O50: each register by the operations that leave it. -/
theorem registersAreWrittenOnlyByTheirOperations : Obligations.RegistersAreWrittenOnlyByTheirOperations := by
  intro i s t h
  have hunder : execUnder Config.hardware i s = .next t := exec_eq_execUnder_hardware ▸ h
  refine ⟨fun hne => ?crcAcc, fun hne => ?seqCnt, fun hne => ?sync, execUnder_keeps_caller hunder⟩ <;> by_contra hno
  case crcAcc =>
    obtain ⟨hinit, hupdate⟩ := not_or.1 hno
    exact hne (execUnder_keeps_crcAcc (not_exists.1 hinit) (not_exists.1 hupdate) hunder)
  case seqCnt =>
    obtain ⟨hnext, hreset⟩ := not_or.1 hno
    exact hne (execUnder_keeps_seqCnt (not_exists.1 hnext) (not_exists.1 hreset) hunder)
  case sync =>
    obtain ⟨hf, hx⟩ := not_or.1 hno
    obtain ⟨hst, hwin, hbuf, hdlen⟩ := exec_keeps_sync_registers (not_exists.1 hf) (not_exists.1 hx) h
    simp [hst, hwin, hbuf, hdlen] at hne

/-- Settles O51: the buffer after a feed by its rows, then its bytes. -/
theorem frameBufferIsAppendedOrCleared : Obligations.FrameBufferIsAppendedOrCleared := by
  refine fun i s t h => ⟨fun hf hx => ?outside, ?exhaust, ?feed⟩
  case outside =>
    obtain ⟨-, -, hbuf, -⟩ := exec_keeps_sync_registers hf hx h
    exact fbufByte_congr hbuf
  case exhaust =>
    rintro ⟨x, rfl⟩
    cases h
    exact fbufByte_of_fbuf_nil rfl
  case feed =>
    rintro b rfl
    have hrow := feedRow_of_feed h
    refine ⟨fun hs ht => fbufByte_congr (hrow.fbuf_of_searching hs ht),
      fun hst => fbufByte_of_fbuf_nil (hrow.fbuf_of_cleared hst), fun hs ht => ?_⟩
    have hbyte := fbufByte_of_appended (hrow.fbuf_of_accumulating hs ht)
    exact ⟨(hbyte _).trans (if_pos rfl), fun a ha => (hbyte a).trans (if_neg ha)⟩

/-- Settles O55: every operation but a feed completes, and a feed stops on a full buffer or in a transient state. -/
theorem operationsStopOnlyOutsideTheTable : Obligations.OperationsStopOnlyOutsideTheTable := by
  intro i s
  by_cases hf : ∃ b, i = .syncFeed b
  · obtain ⟨b, rfl⟩ := hf
    obtain hnext | ⟨hst, hfault⟩ | ⟨hst, hfull, hfault⟩ := feed_completes_or_stops Config.hardware b s
    · exact .inl hnext
    · exact .inr (.inl ⟨b, rfl, hst, hfault⟩)
    · exact .inr (.inr ⟨b, rfl, hst, hfull, hfault⟩)
  · rw [exec_eq_execUnder_hardware]
    exact .inl (execUnder_completes_of_not_feed _ (not_exists.1 hf) s)

/-- Settles O1: the two kinds of request at the head of the caller's list. -/
theorem stepExecutesTheIssuedOperation : Obligations.StepExecutesTheIssuedOperation := by
  refine ⟨fun s w ports rest h => ?command, fun s rest h => ⟨_, step_of_reset h, rfl, rfl⟩⟩
  case command => rw [step, stepBy, nextIssued_command h]

/-- Settles O2. -/
theorem idleBlockKeepsAllItsState : Obligations.IdleBlockKeepsAllItsState := by
  intro s h
  rw [step, stepBy, nextIssued_nil h]

/-- Settles O5: the reset state of the block at the default parameters is in the IDLE row. -/
theorem resetStateIsResting : Obligations.ResetStateIsResting := resting_resetUnder Config.hardware

/-- Settles O56: the values are the definitions; what no parameter reaches, constructor by constructor. -/
theorem parametersReachOnlyTheirOperations : Obligations.ParametersReachOnlyTheirOperations := by
  refine ⟨?values, fun c => ⟨minDlen_add_lenAdj c, rfl⟩,
    ⟨fun i s => by rw [exec_eq_execUnder_hardware], step_eq_stepUnder_hardware, core_eq_coreUnder_hardware⟩,
    fun c i s => execUnder_eq_exec c s, fun _ _ _ => rfl, fun c s rest h => ?reset, fun _ => ⟨rfl, rfl⟩⟩
  case values => exact ⟨rfl, rfl, rfl, rfl, rfl, rfl, rfl, rfl, rfl, rfl, rfl, rfl, rfl, rfl, rfl⟩
  case reset => exact ⟨_, stepUnder_of_reset c h, ⟨rfl, rfl, rfl, rfl, rfl, rfl⟩, rfl⟩

end Sys2Proof.Machine
end

section
/-! The statements of 42_codec.md that join its operations: the length a frame declares (30_encoding.md R50, R61), the round
trip (section 3, item (a)), the missing marker (item (b)), and what the parameters decide in FRAME.DES (R88). All go through
one equation, `deserialize_serialize_append`: what FRAME.DES answers on the frame of any Packet with bytes after it. -/

namespace Sys2Proof.Machine

/-! ### The length a frame declares -/

theorem builtPacket_wf (c : Config) (n : BitVec 14) {p : Inputs} (h : p.payload.length ≤ 65521) :
    Packet.wf c (builtPacket c p n) = true := by
  have hlen := builtDataLength_toNat c h
  rw [packet_wf_iff]
  refine ⟨h, ?_⟩
  simp only [builtPacket]
  omega

/-! ### FRAME.DES of a frame, with bytes after it -/

theorem afterMarker_serialize_append (p : Packet) (f : Bool) (S : List Byte) :
    afterMarker f (serialize p f ++ S) = some (frameOf p ++ S) := by
  cases f <;> rfl

/-- `data_length` stands in the header, so bytes after the frame leave it. -/
theorem be16_frameOf_append (p : Packet) (S : List Byte) : be16 (frameOf p ++ S) 4 = p.header.dataLength := by
  rw [be16_append_left _ S (by rw [frameOf_length]; omega), be16_frameOf]

/-- What FRAME.DES returns of the Packet `p` read back whole. -/
def readBack (p : Packet) : Outputs :=
  { Outputs.quiet with
    hdr := some p.header, payload := some p.payload, crcValid := some true,
    crcRx := some (crc32 (packHeader p.header ++ p.payload)),
    crcCalc := some (crc32 (packHeader p.header ++ p.payload)) }

/-- FRAME.DES on a frame with the bytes `S` after it, for any `data_length` in the header: one test decides. -/
theorem deserialize_serialize_append (c : Config) (p : Packet) (f : Bool) (S : List Byte) (s : State) :
    deserialize c f (serialize p f ++ S) s =
      if p.header.dataLength.toNat + c.lenAdj.val < 14 ∨
          (frameOf p ++ S).length < p.header.dataLength.toNat + c.lenAdj.val + 6 ∨
          (p.header.dataLength.toNat + c.lenAdj.val + 6 < (frameOf p ++ S).length ∧
            c.surplusPolicy = .invalidLength) then
        raiseError .invalidLength none s
      else finish (decodedFrame (frameOf p ++ S) (p.header.dataLength.toNat + c.lenAdj.val - 14)) s := by
  have hmin : 20 ≤ (frameOf p ++ S).length := by
    rw [List.length_append, frameOf_length]
    omega
  rw [deserialize_of_minFrame c s (afterMarker_serialize_append p f S) hmin, checkLength_eq, be16_frameOf_append]

/-- A frame read with its own payload length gives the Packet back, whatever bytes follow it. -/
theorem decodedFrame_frameOf_append (p : Packet) (S : List Byte) :
    decodedFrame (frameOf p ++ S) p.payload.length = readBack p := by
  have hbody := packHeader_append_payload_length p
  have hsplit : frameOf p ++ S =
      packHeader p.header ++ p.payload ++ (toBe32 (crc32 (packHeader p.header ++ p.payload)) ++ S) :=
    List.append_assoc _ _ _
  have hheader : (frameOf p ++ S).take 16 = packHeader p.header := by
    rw [hsplit, List.append_assoc, List.take_left' (packHeader_length _)]
  have hpayload : ((frameOf p ++ S).drop 16).take p.payload.length = p.payload := by
    rw [hsplit, List.append_assoc, List.drop_left' (packHeader_length _), List.take_left]
  have htake : (frameOf p ++ S).take (16 + p.payload.length) = packHeader p.header ++ p.payload := by
    rw [hsplit, List.take_left' hbody]
  have htrailer : be32 (frameOf p ++ S) (16 + p.payload.length) = crc32 (packHeader p.header ++ p.payload) := by
    rw [hsplit, ← hbody, be32_append_right _ _ le_rfl, Nat.sub_self]
    exact be32_toBe32 _
  rw [decodedFrame, hdrLen, hheader, hpayload, htake, htrailer, unpackHeader_packHeader, beq_self_eq_true]
  rfl

/-- A well-formed frame is read back, alone or with surplus bytes that `SURPLUS_POLICY` ignores. -/
theorem deserialize_of_wf {c : Config} {p : Packet} (f : Bool) {S : List Byte} (s : State) (hwf : Packet.wf c p = true)
    (hS : S = [] ∨ c.surplusPolicy ≠ .invalidLength) :
    deserialize c f (serialize p f ++ S) s = .next { s with out := readBack p } := by
  obtain ⟨-, hlen⟩ := (packet_wf_iff c p).1 hwf
  have hframe := frameOf_length p
  rw [deserialize_serialize_append, if_neg ?accepted, hlen, Nat.add_sub_cancel_left, decodedFrame_frameOf_append]
  case accepted =>
    rw [List.length_append]
    rintro (hshort | hmissing | ⟨hsurplus, hpolicy⟩)
    · omega
    · omega
    · obtain rfl | hignored := hS
      · rw [List.length_nil] at hsurplus
        omega
      · exact hignored hpolicy
  rfl

/-- Surplus bytes are refused where `SURPLUS_POLICY` is `invalid_length`. -/
theorem deserialize_of_surplus {c : Config} {p : Packet} (f : Bool) {S : List Byte} (s : State)
    (hwf : Packet.wf c p = true) (hS : S ≠ []) (hpolicy : c.surplusPolicy = .invalidLength) :
    deserialize c f (serialize p f ++ S) s = raiseError .invalidLength none s := by
  obtain ⟨-, hlen⟩ := (packet_wf_iff c p).1 hwf
  have hframe := frameOf_length p
  have hpos := List.length_pos_iff.2 hS
  rw [deserialize_serialize_append, List.length_append, if_pos (.inr (.inr ⟨by omega, hpolicy⟩))]

/-- A transmitter at `LEN_ADJ = 0` declares one byte more than a block at `LEN_ADJ = 1` finds (70_reset_and_hazards.md R142). -/
theorem deserialize_of_other_convention {c d : Config} {p : Packet} (f : Bool) (s : State) (hc : c.lenAdj = 0)
    (hd : d.lenAdj = 1) (hwf : Packet.wf c p = true) :
    deserialize d f (serialize p f) s = raiseError .invalidLength none s := by
  obtain ⟨-, hlen⟩ := (packet_wf_iff c p).1 hwf
  have hframe := frameOf_length p
  rw [hc] at hlen
  have h := deserialize_serialize_append d p f [] s
  rw [List.append_nil, List.append_nil, hd] at h
  exact h.trans (if_pos (.inr (.inl (by simp at hlen ⊢; omega))))

/-- A frame read back as its own Packet declares the payload's length: an error returns no Packet, and another length
would return another payload. -/
theorem wf_of_deserialize {c : Config} {p : Packet} {f : Bool} {s : State} (hmax : p.payload.length ≤ 65521)
    (h : deserialize c f (serialize p f) s = .next { s with out := readBack p }) : Packet.wf c p = true := by
  have hframe := frameOf_length p
  have heq := deserialize_serialize_append c p f [] s
  rw [List.append_nil, List.append_nil, h] at heq
  split at heq
  next =>
    have hhdr := congrArg (fun t : State => t.out.hdr) (Host.Outcome.next.inj heq)
    cases hhdr
  next haccepted =>
    have hpayload : p.payload = ((frameOf p).drop 16).take (p.header.dataLength.toNat + c.lenAdj.val - 14) := by
      have hout := congrArg (fun t : State => t.out.payload) (Host.Outcome.next.inj heq)
      exact Option.some.inj hout
    have hlen := congrArg List.length hpayload
    rw [List.length_take, List.length_drop] at hlen
    exact (packet_wf_iff c p).2 ⟨hmax, by omega⟩

/-! ### A buffer of exactly the declared length -/

theorem unpackHeader_take {R : List Byte} (h : 16 ≤ R.length) : unpackHeader (R.take 16) = unpackHeader R := by
  rw [← packHeader_unpackHeader h, unpackHeader_packHeader]

/-- On this hardware: `data_length` at least 13, and `data_length + 7` bytes after the marker (42_codec.md R88). -/
theorem deserialize_of_exact_length {f : Bool} {B R : List Byte} (s : State) (hafter : afterMarker f B = some R)
    (hmin : 13 ≤ (be16 R 4).toNat) (hlen : R.length = (be16 R 4).toNat + 7) :
    deserialize Config.hardware f B s = .next { s with out := { Outputs.quiet with
      hdr := some (unpackHeader R)
      payload := some ((R.drop 16).take (R.length - 20))
      crcValid := some (decide (crc32 (R.take (R.length - 4)) = be32 R (R.length - 4)))
      crcRx := some (be32 R (R.length - 4))
      crcCalc := some (crc32 (R.take (R.length - 4))) } } := by
  have hadj : Config.hardware.lenAdj.val = 1 := rfl
  have hpayload : (be16 R 4).toNat + 1 - 14 = R.length - 20 := by omega
  have htrailer : (be16 R 4).toNat + 1 + 2 = R.length - 4 := by omega
  rw [deserialize_of_minFrame _ s hafter (by omega), checkLength_eq, hadj, if_neg (by omega),
    decodedFrame_eq R (by omega), unpackHeader_take (by omega), hpayload, htrailer]
  rfl

/-! ### A frame without its marker -/

theorem be16_frameOf_word0 (p : Packet) : be16 (frameOf p) 0 = headerWord0 p.header := by
  rw [frameOf, List.append_assoc, be16_append_left _ _ (by rw [packHeader_length]; omega)]
  exact be16_toBe16 (headerWord0 p.header)

/-- The first two bytes of a frame are a marker only where the first header word is `0x55AA`. -/
theorem headerWord0_of_marker {p : Packet} (h : (frameOf p)[0]? = some 0x55 ∧ (frameOf p)[1]? = some 0xAA) :
    headerWord0 p.header = 0x55AA := by
  obtain ⟨h0, h1⟩ := h
  rw [← be16_frameOf_word0, be16, byteAt, byteAt, List.getD_eq_getElem?_getD, List.getD_eq_getElem?_getD, h0, h1]
  rfl

/-! ### The statements -/

/-- Settles O59: the built Packet is well formed, so its frame is read back. -/
theorem roundTripUnderEveryConfiguration : Obligations.RoundTripUnderEveryConfiguration := by
  intro c f x y z s hmax
  have hwf := builtPacket_wf c s.inp.hdr.sequenceCount hmax
  obtain ⟨-, hlen⟩ := (packet_wf_iff c _).1 hwf
  have hdes (u : State) := deserialize_of_wf f u hwf (.inl rfl)
  simp only [List.append_nil] at hdes
  exact ⟨_, _, _, _, _, _, buildPacket_of_fits c _ hmax, rfl, rfl, hlen, exec_frameSer f y _, rfl, hdes _, rfl⟩

/-- Settles O30: the round trip of a block with any parameters, at the defaults. -/
theorem buildSerializeDeserializeRoundTrip : Obligations.BuildSerializeDeserializeRoundTrip := by
  intro f x y z s hmax
  obtain ⟨h, F, crc, t, u, v, hbuild, hhdr, hpayload, -, hrest⟩ :=
    roundTripUnderEveryConfiguration Config.hardware f x y z s hmax
  exact ⟨h, F, crc, t, u, v, hbuild, hhdr, hpayload, hrest⟩

/-- Settles O31: a well-formed frame is read back, and what is read back declares its payload's length. -/
theorem roundTripExactlyForTheLengthInvariant : Obligations.RoundTripExactlyForTheLengthInvariant := by
  refine fun c p f s hmax => ⟨fun hwf => ?_, wf_of_deserialize hmax⟩
  have h := deserialize_of_wf f s hwf (.inl rfl)
  rwa [List.append_nil] at h

/-- Settles O25. -/
theorem builtPacketsSatisfyTheLengthInvariant : Obligations.BuiltPacketsSatisfyTheLengthInvariant :=
  fun c n _ hmax => ⟨_, _, buildPacket_of_fits c n hmax, rfl, rfl, builtPacket_wf c n hmax⟩

/-- Settles O27. -/
theorem frameDeclaresItsLength : Obligations.FrameDeclaresItsLength := by
  intro c p hwf
  obtain ⟨-, hlen⟩ := frameOf_declares_length hwf
  refine ⟨?_, ?_⟩
  · rw [hlen, frameLenOf, priHdrLen, Nat.add_comm _ 6]
  · rw [frameOf_length, Nat.add_sub_cancel_left, frameOf_payload]

/-- Settles O29. -/
theorem frameDesCompletesOnExactLength : Obligations.FrameDesCompletesOnExactLength := by
  intro f x s R hframe hmin hlen
  have hafter : afterMarker f s.inp.frame = some R := by
    rw [hframe]
    cases f <;> rfl
  exact deserialize_of_exact_length s hafter hmin hlen

/-- Settles O32: a frame that starts with the marker has `0x55AA` as its first header word. -/
theorem missingMarkerIsSyncMismatch : Obligations.MissingMarkerIsSyncMismatch :=
  fun _ x _ hword => exec_of_raises (.syncMismatch x fun hmarker => hword (headerWord0_of_marker hmarker))

/-- Settles O60: the two policies on surplus bytes, and the frame that declares one byte more than it has. -/
theorem surplusAndConventionFollowTheParameters : Obligations.SurplusAndConventionFollowTheParameters := by
  refine ⟨fun c p f x S s hwf hS hframe => ?surplus, fun c d p f x s hc hd hwf hframe => ?convention⟩
  case surplus =>
    have hexec : execUnder c (.frameDes f x) s = deserialize c f (serialize p f ++ S) s := hframe ▸ rfl
    rw [hexec]
    cases hpolicy : c.surplusPolicy with
    | invalidLength => exact deserialize_of_surplus f s hwf hS hpolicy
    | ignore => exact deserialize_of_wf f s hwf (.inr (by rw [hpolicy]; nofun))
  case convention =>
    have hexec : execUnder d (.frameDes f x) s = deserialize d f (serialize p f) s := hframe ▸ rfl
    rw [hexec]
    exact deserialize_of_other_convention f s hc hd hwf

end Sys2Proof.Machine
end

section
/-! The statement of 42_codec.md section 3, item (c): one flipped bit of a frame is never returned as valid. The byte step of
the CRC is injective in the accumulator and in the byte, so a change in one byte before the trailer changes the CRC; a change
in the trailer changes the number read from it. -/

namespace Sys2Proof.Machine

/-! ### The CRC tells apart two sequences that differ in one byte -/

/-- The polynomial has bit 31 set, so the bit shifted out can be read back from bit 31 of the result. -/
theorem crcBit_getLsbD_31 (a : BitVec 32) : (crcBit a).getLsbD 31 = a.getLsbD 0 := by
  rw [crcBit_eq_shift_xor_feedback, crcFeedback, BitVec.getLsbD_xor]
  cases a.getLsbD 0 <;> simp [crcPolyReflected]

theorem crcBit_injective : Function.Injective crcBit := by
  intro a b h
  have hbit : a.getLsbD 0 = b.getLsbD 0 := by rw [← crcBit_getLsbD_31, h, crcBit_getLsbD_31]
  have hfeedback : crcFeedback a = crcFeedback b := by rw [crcFeedback, hbit, crcFeedback]
  rw [crcBit_eq_shift_xor_feedback, crcBit_eq_shift_xor_feedback, hfeedback] at h
  have hshift : a >>> 1 = b >>> 1 := (BitVec.xor_left_inj _).1 h
  refine BitVec.eq_of_getLsbD_eq fun i _ => ?_
  cases i with
  | zero => exact hbit
  | succ i => simpa [Nat.add_comm 1] using congrArg (fun v : BitVec 32 => v.getLsbD i) hshift

theorem crcStep_injective_acc (b : Byte) : Function.Injective fun acc => crcStep acc b := by
  intro a a' h
  simp only [crcStep_eq_iterate] at h
  exact (BitVec.xor_left_inj _).1 (crcBit_injective.iterate 8 h)

theorem crcStep_injective_byte (acc : BitVec 32) : Function.Injective (crcStep acc) := by
  intro b b' h
  simp only [crcStep_eq_iterate] at h
  have hwide := (BitVec.xor_right_inj _).1 (crcBit_injective.iterate 8 h)
  simpa using congrArg (BitVec.setWidth 8) hwide

theorem crcFold_injective (B : List Byte) : Function.Injective fun acc => crcFold acc B := by
  induction B with
  | nil => exact Function.injective_id
  | cons b B ih => exact ih.comp (crcStep_injective_acc b)

theorem crc32_ne_of_byte_ne (A C : List Byte) {b b' : Byte} (h : b ≠ b') :
    crc32 (A ++ b :: C) ≠ crc32 (A ++ b' :: C) := by
  intro heq
  have hfold := (BitVec.xor_left_inj _).1 heq
  rw [crcFold_append, crcFold_append] at hfold
  exact h (crcStep_injective_byte _ (crcFold_injective C hfold))

/-! ### A flipped bit -/

theorem flippedByte_ne (b : Byte) {j : Nat} (hj : j < 8) : b ^^^ (1#8 <<< j) ≠ b := by
  intro h
  have hbit := congrArg (fun v => v.getLsbD j) h
  simp [hj] at hbit

theorem flipBit_length (B : List Byte) (k j : Nat) : (flipBit B k j).length = B.length := List.length_modify _ _ _

theorem flipBit_append_left {A : List Byte} (B : List Byte) {k : Nat} (j : Nat) (h : k < A.length) :
    flipBit (A ++ B) k j = flipBit A k j ++ B := by
  induction A generalizing k with
  | nil => cases h
  | cons a A ih =>
    cases k with
    | zero => rfl
    | succ k => exact congrArg (a :: ·) (ih (Nat.lt_of_succ_lt_succ h))

theorem flipBit_append_right {A : List Byte} (B : List Byte) {k : Nat} (j : Nat) (h : A.length ≤ k) :
    flipBit (A ++ B) k j = A ++ flipBit B (k - A.length) j := by
  induction A generalizing k with
  | nil => rfl
  | cons a A ih =>
    cases k with
    | zero => cases h
    | succ k =>
      have hrest := ih (Nat.le_of_succ_le_succ h)
      rw [List.length_cons, Nat.add_sub_add_right]
      exact congrArg (a :: ·) hrest

theorem flipBit_getElem?_ne {B : List Byte} {k j : Nat} (hk : k < B.length) (hj : j < 8) :
    (flipBit B k j)[k]? ≠ B[k]? := by
  rw [flipBit, List.getElem?_modify_eq, List.getElem?_eq_getElem hk]
  exact fun h => flippedByte_ne _ hj (Option.some.inj h)

theorem byteAt_flipBit_ne {B : List Byte} {k j : Nat} (hk : k < B.length) (hj : j < 8) :
    byteAt (flipBit B k j) k ≠ byteAt B k := by
  simp only [byteAt, List.getD_eq_getElem?_getD, flipBit, List.getElem?_modify_eq, List.getElem?_eq_getElem hk]
  exact flippedByte_ne _ hj

theorem byteAt_flipBit_of_ne (B : List Byte) {k i : Nat} (j : Nat) (h : k ≠ i) :
    byteAt (flipBit B k j) i = byteAt B i := by
  simp only [byteAt, List.getD_eq_getElem?_getD, flipBit, List.getElem?_modify_ne _ _ h]

/-- A flip inside a 16-bit number changes it. -/
theorem be16_flipBit_ne {B : List Byte} {k i j : Nat} (hk : k < B.length) (hj : j < 8) (hi : k = i ∨ k = i + 1) :
    be16 (flipBit B k j) i ≠ be16 B i := by
  intro h
  have hbytes := congrArg toBe16 h
  simp only [toBe16_be16, List.cons.injEq, and_true] at hbytes
  obtain ⟨hfirst, hsecond⟩ := hbytes
  obtain rfl | rfl := hi
  · exact byteAt_flipBit_ne hk hj hfirst
  · exact byteAt_flipBit_ne hk hj hsecond

theorem be16_flipBit_of_ne (B : List Byte) {k i : Nat} (j : Nat) (h : ¬ (k = i ∨ k = i + 1)) :
    be16 (flipBit B k j) i = be16 B i := by
  obtain ⟨hfirst, hsecond⟩ := not_or.1 h
  rw [be16, byteAt_flipBit_of_ne B j hfirst, byteAt_flipBit_of_ne B j hsecond, be16]

theorem crc32_flipBit_ne {B : List Byte} {k j : Nat} (hk : k < B.length) (hj : j < 8) :
    crc32 (flipBit B k j) ≠ crc32 B := by
  obtain ⟨A, b, C, hB, -, hflip⟩ := List.exists_of_modify (fun b => b ^^^ (1#8 <<< j)) hk
  rw [flipBit, hflip, hB]
  exact crc32_ne_of_byte_ne A C (flippedByte_ne b hj)

/-- Four bytes are fixed by the number they hold, so a flip among them changes it. -/
theorem be32_flipBit_ne {T : List Byte} {k j : Nat} (hT : T.length = 4) (hk : k < 4) (hj : j < 8) :
    be32 (flipBit T k j) 0 ≠ be32 T 0 := by
  intro h
  have hbytes := congrArg toBe32 h
  simp only [toBe32_be32, List.cons.injEq, and_true] at hbytes
  obtain ⟨h0, h1, h2, h3⟩ := hbytes
  have hne := byteAt_flipBit_ne (B := T) (hT ▸ hk) hj
  interval_cases k
  · exact hne h0
  · exact hne h1
  · exact hne h2
  · exact hne h3

/-! ### A frame with one flipped bit -/

/-- With one bit flipped, the CRC of the bytes before the trailer is not the number in the trailer. -/
theorem crc32_ne_trailer_of_flipBit {p : Packet} {R : List Byte} {k j : Nat} (hk : k < (frameOf p).length) (hj : j < 8)
    (hR : R = flipBit (frameOf p) k j) : crc32 (R.take (R.length - 4)) ≠ be32 R (R.length - 4) := by
  have hbody := packHeader_append_payload_length p
  have hlen := frameOf_length p
  have htrailer : R.length - 4 = (packHeader p.header ++ p.payload).length := by
    rw [hR, flipBit_length]
    omega
  rw [htrailer]
  obtain hbefore | hafter := Nat.lt_or_ge k (packHeader p.header ++ p.payload).length
  · rw [frameOf, flipBit_append_left _ j hbefore] at hR
    rw [hR, List.take_left' (flipBit_length _ _ _), be32_append_right _ _ (flipBit_length _ _ _).le, flipBit_length,
      Nat.sub_self, be32_toBe32]
    exact crc32_flipBit_ne hbefore hj
  · rw [frameOf, flipBit_append_right _ j hafter] at hR
    rw [hR, List.take_left, be32_append_right _ _ le_rfl, Nat.sub_self]
    have hne := be32_flipBit_ne (toBe32_length (crc32 (packHeader p.header ++ p.payload)))
      (k := k - (packHeader p.header ++ p.payload).length) (by omega) hj
    rw [be32_toBe32] at hne
    exact hne.symm

/-- A flip after the marker is a flip in the frame. -/
theorem flipBit_serialize (p : Packet) (f : Bool) {k m : Nat} (j : Nat) (hm : m = if f then 2 else 0) (h : m ≤ k) :
    flipBit (serialize p f) k j = (if f then [0x55, 0xAA] else []) ++ flipBit (frameOf p) (k - m) j := by
  have hlen : (if f then [0x55, 0xAA] else [] : List Byte).length = m := by
    rw [hm]
    cases f <;> rfl
  rw [serialize_eq_append, flipBit_append_right _ j (hlen ▸ h), hlen]

/-- On this hardware `frame_len` is `data_length + 7` (10_state.md R17). -/
theorem frameLenOf_hardware (d : BitVec 16) : frameLenOf Config.hardware d = d.toNat + 7 := rfl

theorem markerPassed_append (f : Bool) (R : List Byte) : MarkerPassed f ((if f then [0x55, 0xAA] else []) ++ R) := by
  rintro rfl
  exact ⟨rfl, rfl⟩

theorem bytesAfterMarker_append (f : Bool) (R : List Byte) :
    bytesAfterMarker f ((if f then [0x55, 0xAA] else []) ++ R) = R := by
  cases f <;> rfl

/-- A flip in the marker. -/
theorem raises_syncMismatch_of_flipBit {p : Packet} (x : BitVec 7) {k j : Nat} {s : State} (hk : k < 2) (hj : j < 8)
    (hframe : s.inp.frame = flipBit (serialize p true) k j) : Raises s (.frameDes true x) .syncMismatch := by
  have hlen := serialize_length p true
  rw [if_pos rfl] at hlen
  have hne := flipBit_getElem?_ne (B := serialize p true) (k := k) (by omega) hj
  rw [← hframe] at hne
  refine .syncMismatch x fun ⟨h0, h1⟩ => ?_
  interval_cases k
  · exact hne h0
  · exact hne h1

/-- A flip in `data_length`: the frame no longer has the length it declares. -/
theorem raises_invalidLength_of_flipBit {p : Packet} {f : Bool} (x : BitVec 7) {k j : Nat} {s : State}
    (hwf : Packet.wf Config.hardware p = true) (hk : k = 4 ∨ k = 5) (hj : j < 8)
    (hframe : s.inp.frame = (if f then [0x55, 0xAA] else []) ++ flipBit (frameOf p) k j) :
    Raises s (.frameDes f x) .invalidLength := by
  obtain ⟨-, hdeclared⟩ := frameOf_declares_length hwf
  have hlen := frameOf_length p
  have hne := be16_flipBit_ne (B := frameOf p) (i := 4) (by omega) hj hk
  have hlen' := flipBit_length (frameOf p) k j
  rw [hdeclared, frameLenOf_hardware] at hlen'
  refine .invalidLength f x (hframe ▸ markerPassed_append f _) ?_ ?_ <;> rw [hframe, bytesAfterMarker_append]
  · rw [flipBit_length]
    omega
  · refine .inr fun heq => hne (BitVec.eq_of_toNat_eq ?_)
    have hequal := heq.trans hlen'
    omega

/-- A flip anywhere else in the frame: it is read, with the CRC verdict 0. -/
theorem deserialize_of_flipBit {p : Packet} {f : Bool} {k j : Nat} (s : State)
    (hwf : Packet.wf Config.hardware p = true) (hk : k < (frameOf p).length) (hne : ¬ (k = 4 ∨ k = 5)) (hj : j < 8) :
    ∃ t, deserialize Config.hardware f ((if f then [0x55, 0xAA] else []) ++ flipBit (frameOf p) k j) s = .next t ∧
      t.out.err = .noError ∧ t.out.crcValid = some false := by
  obtain ⟨hmin, hdeclared⟩ := frameOf_declares_length hwf
  have hcrc := crc32_ne_trailer_of_flipBit hk hj rfl
  have hread := be16_flipBit_of_ne (frameOf p) j hne
  rw [← hread] at hmin hdeclared
  rw [frameLenOf_hardware, ← flipBit_length _ k j] at hdeclared
  have hafter := afterMarker_of_markerPassed (markerPassed_append f (flipBit (frameOf p) k j))
  rw [bytesAfterMarker_append] at hafter
  exact ⟨_, deserialize_of_exact_length s hafter hmin hdeclared, rfl,
    congrArg some (decide_eq_false hcrc)⟩

/-! ### The statement -/

/-- Settles O33: a flip in the marker, in `data_length`, or in any other byte. -/
theorem singleBitFlipIsNeverValid : Obligations.SingleBitFlipIsNeverValid := by
  intro p f x k j m s hwf hm hk hj
  have hlen := frameOf_length p
  rw [serialize_eq_append, List.length_append] at hk
  obtain hmarker | hafter := Nat.lt_or_ge k m
  · cases f with
    | false =>
      rw [hm] at hmarker
      cases hmarker
    | true =>
      obtain rfl : m = 2 := hm
      exact ⟨_, exec_of_raises (raises_syncMismatch_of_flipBit x hmarker hj rfl), (if_pos hmarker).mpr rfl⟩
  · have hkm : k - m < (frameOf p).length := by
      cases f <;> simp at hk hm <;> omega
    simp only [if_neg (Nat.not_lt.mpr hafter), flipBit_serialize p f j hm hafter]
    by_cases hdlen : k = m + 4 ∨ k = m + 5
    · exact ⟨_, exec_of_raises (raises_invalidLength_of_flipBit x hwf (by omega) hj rfl), (if_pos hdlen).mpr rfl⟩
    · simp only [if_neg hdlen]
      exact deserialize_of_flipBit _ hwf hkm (by omega) hj

end Sys2Proof.Machine
end
